-- ==== Sys2Proof/Word.lean ====
section
/-! DEFINITION. The word types of the display/input control core (spec/00_scope.md R8, spec/30_encoding.md R81). -/

namespace Sys2Proof

/-- A byte: bit 7 is the most significant bit, bit 0 the least (R8). -/
abbrev Byte := BitVec 8

/-- The 32-bit operation word the host presents on the operation port (R81). -/
abbrev OpWord := BitVec 32

/-- The count handed to the delay primitive by the block: SETTLE and RESET_HOLD are 24 bits wide (R35, D20, D15). -/
abbrev Count := BitVec 24

/-- The electrical level of a line: `false` is 0 (low), `true` is 1 (high) (R8, R9). -/
abbrev Level := Bool

end Sys2Proof
end

