-- ==== Sys2Proof/Config.lean ====
section
/-! DEFINITION. What is fixed for one machine and not state (spec/00_scope.md R6, R7, spec/10_state.md R20), and the
free values the spec leaves to the environment. A constant declared `opaque` has no body: nothing can be proved of its
value, so a claim that mentions it holds for every instantiation. -/

namespace Sys2Proof.Config

/-! ## Parameters the spec fixes (R6) -/

/-- N_PAGES (R6). -/
@[simp] abbrev nPages : Nat := 8

/-- N_COLS (R6). -/
@[simp] abbrev nCols : Nat := 128

/-- PIXEL_ROWS, the vertical pixels of the display (R6, R51). -/
def pixelRows : Nat := 64

/-- N_CELLS, the logical cells per axis (R6, R150). -/
def nCells : Nat := 8

/-- CELL_W, the columns of one logical cell (R6). -/
def cellWidth : Nat := 16

/-- BYTE_ON, the pattern byte of a lit cell (R6). -/
def byteOn : Byte := 0xFF#8

/-- BYTE_OFF, the pattern byte of a dark cell and the clear byte (R6). -/
def byteOff : Byte := 0x00#8

/-- CMD_PAGE_BASE (R6, R87). -/
def cmdPageBase : Byte := 0xB0#8

/-- CMD_COL_LO (R6, R88). -/
def cmdColLo : Byte := 0x00#8

/-- CMD_COL_HI (R6, R88). -/
def cmdColHi : Byte := 0x10#8

/-- CMD_DISPLAY_ON (R6, R89). -/
def cmdDisplayOn : Byte := 0xAF#8

/-- N_INIT, the length of the init table (R6, R142). -/
@[simp] abbrev nInit : Nat := 26

/-- DELAY_INIT of the reference host (R6, R182). -/
def delayInit : Nat := 250000

/-- DELAY_MAX of the reference host (R6, R185). -/
def delayMax : Nat := 16000000

/-! ## Parameters the spec leaves OPEN (R7, the table at the end of spec/92_eei_decisions.md) -/

/-- The bytes 0 to 24 of INIT_SEQ, which no document gives (R141, D13). -/
opaque initByte : Nat → Byte

/-- INIT_SEQ[k]: entry 25 is the display-on command, the others are open (R90, R141). -/
def initSeqAt (k : Nat) : Byte := if k = 25 then cmdDisplayOn else initByte k

/-- INIT_SEQ as the table of 26 bytes it is (R31, R141). -/
def initSeq : List Byte := (List.range nInit).map initSeqAt

opaque spiDivLessOne : Nat

/-- SPI_DIV, a positive integer (R111, D8). -/
def spiDiv : Nat := spiDivLessOne + 1

/-- RESET_HOLD, the count that makes the delay primitive wait at least 10 ms (R123, D15). -/
opaque resetHold : Count

/-- Whether the build has a third button: N_BTN is 2 or 3 (R167, D16). -/
opaque thirdButton : Bool

/-- N_BTN (R7, R167). -/
def nBtn : Nat :=
  match thirdButton with
  | true => 3
  | false => 2

/-- Whether button `i` exists, that is `i < N_BTN` (R83). Written by cases on `i` so that it evaluates wherever its value
does not hang on the open parameter. -/
def hasButton (i : BitVec 2) : Bool :=
  if i = 0#2 then true
  else if i = 1#2 then true
  else if i = 2#2 then thirdButton
  else false

/-- BTN_ACTIVE_LEVEL[i], the level that counts as pressed (R36, D17). -/
opaque btnActiveLevel : BitVec 2 → Level

/-- SETTLE_DEFAULT, the reset value of SETTLE (R35, D20). -/
opaque settleDefault : Count

opaque delayMinChoice : Nat

/-- DELAY_MIN of the reference host, between 1 and 250000 (R186, D29). -/
def delayMin : Nat := delayMinChoice % 250000 + 1

/-! ## Free values (draws, R5 and the glossary of spec/00_scope.md)

Each is applied to a counter of the state that every draw advances, so that two draws are two values. -/

/-- The level of an input line at the instant of a sample (R37, R160, U19). -/
opaque drawLevel : Nat → Level

/-- The level of MISO at a rise of SCK (R26, R107, D9). -/
opaque drawMiso : Nat → Level

/-- What RXBUF holds after a byte completes while an unread byte is in it (R108, U4). -/
opaque drawOverrun : Nat → Byte

/-- What the operation port shows as the result of an operation that has none (R84, U3). -/
opaque drawResult : Nat → Byte

/-- How many of its enabled steps the shifter takes before the sequencer's next visible step (R5, R61, R105 to R108:
"the shifter takes an enabled step at some time of its own choosing"). -/
opaque drawPace : Nat → Nat

end Sys2Proof.Config
end

