-- ==== Sys2Proof/Syntax.lean ====
section
/-! DEFINITION. The twelve operations of the block, one constructor per row of spec/opcode_table.json
(spec/30_encoding.md R81, R82, R93). -/

namespace Sys2Proof

/-- One operation the host asks of the block. The field widths are those of the operand fields of R82, so page, column
and settle count have no ill-formed value. -/
inductive Instr where
  /-- SPI_INIT: configure and enable the transport (R101). -/
  | spiInit
  /-- WRITE b: hand one byte to the transport (R103). -/
  | write (b : Byte)
  /-- READ: take the received byte (R104). -/
  | read
  /-- RESET: pulse the device reset line (R123). -/
  | reset
  /-- COMMAND b: one command frame (R121). -/
  | command (b : Byte)
  /-- DATA b: one data frame (R122). -/
  | data (b : Byte)
  /-- INIT: device reset pulse and the 26 command frames of INIT_SEQ (R140). -/
  | init
  /-- CLEAR: 1024 zero data bytes, eight pages (R125). -/
  | clear
  /-- SELECT_PAGE page, column: three command frames (R124). -/
  | selectPage (page : BitVec 3) (column : BitVec 7)
  /-- RENDER inv: the checkerboard, normal (`false`) or inverted (`true`) (R152, R92). -/
  | render (inv : Bool)
  /-- POLL_EDGE i: sample button i, report a press edge (R162). -/
  | pollEdge (i : BitVec 2)
  /-- SET_SETTLE n: write SETTLE (R164). -/
  | setSettle (n : Count)
  deriving DecidableEq, Repr

end Sys2Proof
end

