-- ==== Sys2Proof/WellFormed.lean ====
section
/-! DEFINITION. Which operations are well formed (spec/30_encoding.md R82, R83). -/

namespace Sys2Proof

/-- The field widths make every range of R82 hold by type; the one check left is that a button index is below N_BTN
(R83). -/
def Instr.wf : Instr → Bool
  | .spiInit => true
  | .write _ => true
  | .read => true
  | .reset => true
  | .command _ => true
  | .data _ => true
  | .init => true
  | .clear => true
  | .selectPage _ _ => true
  | .render _ => true
  | .pollEdge i => Config.hasButton i
  | .setSettle _ => true

end Sys2Proof
end

