-- ==== Sys2Proof/Decode.lean ====
section
/-! DEFINITION. The decoder of the 32-bit operation word, total and rejecting by name, and after it the encoder
(spec/30_encoding.md R81 to R83, R95; spec/opcode_table.json). -/

namespace Sys2Proof

/-- Why a word is reserved (R83). The block has no trap for it and the spec gives it no meaning (U1, U2). -/
inductive DecodeError where
  /-- The opcode byte is none of the twelve. -/
  | unassignedOpcode (opc : BitVec 8)
  /-- A bit the operation does not use is 1. -/
  | unusedBitSet (opc : BitVec 8) (operand : BitVec 24)
  /-- POLL_EDGE with an index at or above N_BTN. -/
  | absentButton (i : BitVec 2)
  deriving DecidableEq, Repr

/-- The opcode field `w[31:24]` (R81). -/
def opcodeOf (w : OpWord) : BitVec 8 := w.extractLsb' 24 8

/-- The operand field `w[23:0]` (R81). -/
def operandOf (w : OpWord) : BitVec 24 := w.extractLsb' 0 24

/-- Accept an operation when the bits it does not use are all 0, which `ok` says (R82). -/
def whenUnusedZero (ok : Bool) (opc : BitVec 8) (operand : BitVec 24) (i : Instr) :
    Except DecodeError Instr :=
  if ok then .ok i else .error (.unusedBitSet opc operand)

/-- The rows of R82, by opcode. -/
def decodeFields (opc : BitVec 8) (operand : BitVec 24) : Except DecodeError Instr :=
  if opc = 0x01#8 then whenUnusedZero (operand == 0#24) opc operand .spiInit
  else if opc = 0x02#8 then
    whenUnusedZero (operand.extractLsb' 8 16 == 0#16) opc operand (.write (operand.extractLsb' 0 8))
  else if opc = 0x03#8 then whenUnusedZero (operand == 0#24) opc operand .read
  else if opc = 0x10#8 then whenUnusedZero (operand == 0#24) opc operand .reset
  else if opc = 0x11#8 then
    whenUnusedZero (operand.extractLsb' 8 16 == 0#16) opc operand (.command (operand.extractLsb' 0 8))
  else if opc = 0x12#8 then
    whenUnusedZero (operand.extractLsb' 8 16 == 0#16) opc operand (.data (operand.extractLsb' 0 8))
  else if opc = 0x13#8 then whenUnusedZero (operand == 0#24) opc operand .init
  else if opc = 0x14#8 then whenUnusedZero (operand == 0#24) opc operand .clear
  else if opc = 0x15#8 then
    whenUnusedZero (operand.extractLsb' 11 13 == 0#13 && operand.extractLsb' 7 1 == 0#1) opc operand
      (.selectPage (operand.extractLsb' 8 3) (operand.extractLsb' 0 7))
  else if opc = 0x20#8 then
    whenUnusedZero (operand.extractLsb' 1 23 == 0#23) opc operand
      (.render (operand.extractLsb' 0 1 == 1#1))
  else if opc = 0x30#8 then
    if operand.extractLsb' 2 22 == 0#22 then
      if Config.hasButton (operand.extractLsb' 0 2) then .ok (.pollEdge (operand.extractLsb' 0 2))
      else .error (.absentButton (operand.extractLsb' 0 2))
    else .error (.unusedBitSet opc operand)
  else if opc = 0x31#8 then .ok (.setSettle operand)
  else .error (.unassignedOpcode opc)

/-- What operation a word encodes, or why it is reserved (R82, R83). -/
def decode (w : OpWord) : Except DecodeError Instr := decodeFields (opcodeOf w) (operandOf w)

/-- The word of an opcode and an operand (R81). -/
def opWord (opc : BitVec 8) (operand : BitVec 24) : OpWord := opc ++ operand

/-- The operand that carries a byte in bits 7:0 (R82). -/
def byteOperand (b : Byte) : BitVec 24 := 0#16 ++ b

/-- The operand of SELECT_PAGE: page in bits 10:8, column in bits 6:0 (R82). -/
def cellOperand (page : BitVec 3) (column : BitVec 7) : BitVec 24 := 0#13 ++ (page ++ (0#1 ++ column))

/-- The operand of RENDER: `inv` in bit 0 (R82). -/
def invOperand (inv : Bool) : BitVec 24 := 0#23 ++ BitVec.ofBool inv

/-- The operand of POLL_EDGE: the button index in bits 1:0 (R82). -/
def buttonOperand (i : BitVec 2) : BitVec 24 := 0#22 ++ i

/-- The word of an operation: its opcode in bits 31:24, its operand fields where R82 puts them, every other bit 0. -/
def encode : Instr → OpWord
  | .spiInit => opWord 0x01#8 0#24
  | .write b => opWord 0x02#8 (byteOperand b)
  | .read => opWord 0x03#8 0#24
  | .reset => opWord 0x10#8 0#24
  | .command b => opWord 0x11#8 (byteOperand b)
  | .data b => opWord 0x12#8 (byteOperand b)
  | .init => opWord 0x13#8 0#24
  | .clear => opWord 0x14#8 0#24
  | .selectPage page column => opWord 0x15#8 (cellOperand page column)
  | .render inv => opWord 0x20#8 (invOperand inv)
  | .pollEdge i => opWord 0x30#8 (buttonOperand i)
  | .setSettle n => opWord 0x31#8 n

/-- The instruction this decoder reads from a word numbered as spec/opcode_table.json numbers it. Every operation word is
32 bits (R95), so the table's word is the operation word itself. -/
def decodeTableWord (nbits w : Nat) : Option Instr :=
  match decode (BitVec.ofNat 32 (w % 2 ^ nbits)) with
  | .ok i => some i
  | .error _ => none

/-! ## The opcode table as data -/

/-- One row of spec/opcode_table.json. -/
structure OpRow where
  mnemonic : String
  pattern : OpWord
  mask : OpWord
  deriving DecidableEq, Repr

/-- A word is of a row when `w and mask = match` (R82). -/
def OpRow.covers (r : OpRow) (w : OpWord) : Bool := w &&& r.mask == r.pattern

/-- The transport's and the driver's rows of R82. -/
def opTableLow : List OpRow :=
  [⟨"SPI_INIT", 0x01000000#32, 0xFFFFFFFF#32⟩, ⟨"WRITE", 0x02000000#32, 0xFFFFFF00#32⟩,
   ⟨"READ", 0x03000000#32, 0xFFFFFFFF#32⟩, ⟨"RESET", 0x10000000#32, 0xFFFFFFFF#32⟩,
   ⟨"COMMAND", 0x11000000#32, 0xFFFFFF00#32⟩, ⟨"DATA", 0x12000000#32, 0xFFFFFF00#32⟩]

/-- The other rows of R82. -/
def opTableHigh : List OpRow :=
  [⟨"INIT", 0x13000000#32, 0xFFFFFFFF#32⟩, ⟨"CLEAR", 0x14000000#32, 0xFFFFFFFF#32⟩,
   ⟨"SELECT_PAGE", 0x15000000#32, 0xFFFFF880#32⟩, ⟨"RENDER", 0x20000000#32, 0xFFFFFFFE#32⟩,
   ⟨"POLL_EDGE", 0x30000000#32, 0xFFFFFFFC#32⟩, ⟨"SET_SETTLE", 0x31000000#32, 0xFF000000#32⟩]

/-- The twelve rows of R82, match and mask as the table gives them. -/
def opTable : List OpRow := opTableLow ++ opTableHigh

/-- The table's name for an operation (R81). -/
def Instr.mnemonic : Instr → String
  | .spiInit => "SPI_INIT"
  | .write _ => "WRITE"
  | .read => "READ"
  | .reset => "RESET"
  | .command _ => "COMMAND"
  | .data _ => "DATA"
  | .init => "INIT"
  | .clear => "CLEAR"
  | .selectPage _ _ => "SELECT_PAGE"
  | .render _ => "RENDER"
  | .pollEdge _ => "POLL_EDGE"
  | .setSettle _ => "SET_SETTLE"

end Sys2Proof
end

