-- ==== Sys2Proof/Machine/State.lean ====
section
/-! DEFINITION. The state of the block (spec/10_state.md R20 to R44), of the agents around it (spec/00_scope.md R5: host,
sink, environment), and the reset state. Plain data throughout. -/

namespace Sys2Proof.Machine

/-! ## Lines and events (R9, R10) -/

/-- The chip-select latch CS (R27). -/
inductive Cs where
  | asserted
  | deasserted
  deriving DecidableEq, Repr

/-- The data/command latch DC, and the kind of a frame (R28, R92). -/
inductive Dc where
  | command
  | data
  deriving DecidableEq, Repr

/-- The device reset latch RST (R29). -/
inductive Rst where
  | low
  | high
  deriving DecidableEq, Repr

/-- The kinds of delay the block asks the delay primitive for (R10). -/
inductive DelayKind where
  | resetHold
  | settle
  deriving DecidableEq, Repr

/-- The event alphabet of R10. -/
inductive Event where
  /-- Line(CS, s): a drive, also when the level does not change (D34). -/
  | lineCs (s : Cs)
  /-- Line(DC, s). -/
  | lineDc (s : Dc)
  /-- Line(RST, l). -/
  | lineRst (l : Rst)
  /-- Byte(b): `b` is handed to the transport. -/
  | byte (b : Byte)
  /-- Wait(k, n): a delay of count `n` is asked for, and is over before the next event. -/
  | wait (k : DelayKind) (n : Count)
  /-- Sample(i, l): input line `i` is read at level `l`. -/
  | sample (i : BitVec 2) (l : Level)
  /-- Rx(b): the transport captured `b`; a wire-level event (R10, R108). -/
  | rx (b : Byte)
  deriving DecidableEq, Repr

/-! ## The block -/

/-- SPI_CFG, the transport's configuration record: named fields without bit positions (R21, D12). -/
structure SpiCfg where
  spiEn : Bool
  mstr : Bool
  cpol : Bool
  cpha : Bool
  ssm : Bool
  lsbFirst : Bool
  br : Nat
  deriving DecidableEq, Repr

/-- The transport registers and pins (R21 to R26). -/
structure Transport where
  cfg : SpiCfg
  txbuf : Byte
  txe : Bool
  shift : Byte
  bitcnt : BitVec 4
  half : Bool
  rxbuf : Byte
  rxne : Bool
  sck : Level
  mosi : Level
  deriving DecidableEq, Repr

/-- The framer latches (R27 to R29). -/
structure Lines where
  cs : Cs
  dc : Dc
  rst : Rst
  deriving DecidableEq, Repr

/-- The sequencer registers (R30). `pos` counts the steps of the running operation's pseudocode already taken: it is the
"step inside the current frame" of R39, the model's own form of it. -/
structure Sequencer where
  opBusy : Bool
  opc : BitVec 8
  opr : BitVec 24
  pageCnt : BitVec 4
  colCnt : BitVec 8
  initIdx : BitVec 5
  pos : Nat
  deriving DecidableEq, Repr

/-- The input registers: PREV[i] for the buttons 0 to 2, and SETTLE (R33, R35). With N_BTN = 2 no operation reaches
element 2. -/
structure Inputs where
  prev : Vector Bool 3
  settle : Count
  deriving DecidableEq, Repr

/-- The result latches (R38) and `port`, the 8-bit result handed to the host with the last completion (R84). -/
structure Results where
  resByte : Byte
  resEdge : Bool
  port : Byte
  deriving DecidableEq, Repr

/-! ## The display device, as the reference sink (R65 to R72) -/

/-- Display RAM: (address, byte) pairs, the address of (page, column) being `page * 128 + column` (R55). An unlisted cell
is unknown. -/
abbrev Memory := List Host.Cell

/-- The sink's phase (R65). -/
inductive Phase where
  | unconfigured
  | resetLow (held : Bool)
  | resetHigh
  | config (k : Fin Config.nInit)
  | ready
  | broken
  deriving DecidableEq, Repr

/-- The Display Session as far as the spec lets one know it (R65). `none` is "unknown" everywhere. -/
structure Sink where
  phase : Phase
  ram : Memory
  page : Option (BitVec 3)
  colLo : Option (BitVec 4)
  colHi : Option (BitVec 3)
  on : Option Bool
  deriving DecidableEq, Repr

/-! ## The environment -/

/-- What the agents outside the block will do. `buttons`, `miso` and `pace` are choices already made, oldest first: the
levels the next samples of an input line see, the levels the next samples of MISO see, and how many of its enabled steps
the shifter takes at its next turns. Where a list is empty the choice is a draw of Config at `draws`, which counts the
draws made. `wedge` is `none` for a shifter that never stops, and `some n` for one that stops after `n` more steps, for
ever but for a block reset (R110, R204, D36, log 4). -/
structure Environment where
  buttons : List Level
  miso : List Level
  pace : List Nat
  wedge : Option Nat
  draws : Nat
  deriving DecidableEq, Repr

/-! ## The host -/

/-- Display Mode (R92, R181). -/
inductive DisplayMode where
  | normal
  | inverted
  deriving DecidableEq, Repr

/-- Where the reference host, the Control Loop, stands (R182 to R188). `boot` is the first line of its startup, where a
block reset puts it. `off`: another host than the Control Loop is attached, and it presents all operation words
(R5, R191). -/
inductive LoopPhase where
  | off
  | boot
  | setup
  | sampleMode
  | sampleUp
  | sampleDown
  | modeEdge
  | upEdge
  | downEdge
  | blink
  deriving DecidableEq, Repr

/-- What the Control Loop does on its own account: it drives the indicator line and asks for blink delays (R187, R190). -/
inductive HostEvent where
  | indicator (l : Level)
  | blinkDelay (n : Nat)
  deriving DecidableEq, Repr

/-- The host (R5, R180, R181). `queue` holds the words it will present on the operation port, the next one first. The
other fields belong to the Control Loop: its registers, the three edges of the running iteration, and the record of its
own events. -/
structure HostAgent where
  queue : List OpWord
  loop : LoopPhase
  blinkEn : Bool
  delay : Nat
  mode : DisplayMode
  ind : Level
  eMode : Bool
  eUp : Bool
  eDown : Bool
  log : List HostEvent
  deriving DecidableEq, Repr

/-! ## The whole -/

/-- The state. `trace` is the observable behaviour so far, oldest event first (R10). -/
structure State where
  spi : Transport
  lines : Lines
  seq : Sequencer
  inp : Inputs
  res : Results
  sink : Sink
  env : Environment
  host : HostAgent
  trace : List Event
  deriving DecidableEq, Repr

/-- Why the machine stops with a fault. The block has no fault of its own (R12, R200). -/
inductive Fault where
  /-- Raised by `resume` when OP_BUSY is 1 and OPC holds none of the twelve opcodes, which no accepted word leaves
  (R81, U7). Safe: no run from reset reaches it, and nothing is proved of what follows. -/
  | noOperationRunning (opc : BitVec 8)
  deriving DecidableEq, Repr

/-- Why a step is refused. -/
inductive Refusal where
  /-- Raised by an arm of `exec` whose operation has no meaning in the model. Safe. -/
  | notModelled (mnemonic : String)
  /-- Raised by `step` on a reserved operation word and by POLL_EDGE with an absent button: the spec leaves what the block
  does unspecified and tells a model to refuse (R83, U1, U2). Safe. -/
  | reservedWord (why : DecodeError)
  deriving DecidableEq, Repr

/-! ## The sequencer's steps

An operation's pseudocode is a list of these; the meanings in the files beside this one write the lists. -/

/-- The conditions of `wait_until` (R101, R102, R104, R120). -/
inductive WaitCond where
  /-- TXE = 1 (R102). -/
  | txe
  /-- RXNE = 1 (R104). -/
  | rxne
  /-- SPI_BSY = 0 (R120, F1 and F5). -/
  | idle
  /-- SPI_BSY = 0, asked only when SPI_EN = 1 (R101). -/
  | idleIfEnabled
  deriving DecidableEq, Repr

/-- Where the byte of a `TransportWrite` comes from. -/
inductive ByteSrc where
  /-- A constant. -/
  | lit (b : Byte)
  /-- OPR[7:0] (R82). -/
  | operand
  /-- `0xB0 + PAGE_CNT` (R125, R152). -/
  | pageOfCounter
  /-- `0xB0 + page` with `page = OPR[10:8]` (R124). -/
  | pageOfOperand
  /-- `0x00 + column[3:0]` with `column = OPR[6:0]` (R124). -/
  | colLoOfOperand
  /-- `0x10 + column[6:4]` with `column = OPR[6:0]` (R124). -/
  | colHiOfOperand
  /-- `INIT_SEQ[INIT_IDX]` (R140). -/
  | initEntry
  /-- `pattern(OPR[0], PAGE_CNT, COL_CNT)` (R152). -/
  | patternByte
  deriving DecidableEq, Repr

/-- One step of the sequencer (R11). -/
inductive SeqStep where
  | wait (c : WaitCond)
  | driveCs (v : Cs)
  | driveDc (v : Dc)
  | driveRst (v : Rst)
  /-- The last two lines of `TransportWrite` (R102). -/
  | load (src : ByteSrc)
  /-- The last two lines of `TransportRead`, and `RES_BYTE <- v` (R104). -/
  | takeByte
  /-- `Delay(ResetHold, RESET_HOLD)` (R123). -/
  | resetHold
  /-- The assignments of SPI_INIT (R101). -/
  | configure
  | clearPage
  | incPage
  | clearCol
  | incCol
  | clearIdx
  | incIdx
  /-- The body of POLL_EDGE (R162). -/
  | poll
  /-- `SETTLE <- n` (R164). -/
  | writeSettle
  deriving DecidableEq, Repr

/-- What becomes of a sequencer that takes steps: it took them all, or it stands at a wait whose condition no agent can
make true (R12, R203). -/
inductive Progress where
  | moved (s : State)
  | waits (s : State)

/-! ## Reset -/

/-- SPI_CFG after block reset: SPI_EN is 0 (R43); the other fields are unspecified, zero here (log 1). -/
def SpiCfg.reset : SpiCfg :=
  { spiEn := false, mstr := false, cpol := false, cpha := false, ssm := false, lsbFirst := false, br := 0 }

/-- The transport after block reset (R43). TXBUF, SHIFT, RXBUF, SCK and MOSI are unspecified, zero here (log 1). -/
def Transport.reset : Transport :=
  { cfg := SpiCfg.reset, txbuf := 0#8, txe := true, shift := 0#8, bitcnt := 0#4, half := false,
    rxbuf := 0#8, rxne := false, sck := false, mosi := false }

/-- The sequencer after block reset (R43). All but OP_BUSY is unspecified, zero here (log 1). -/
def Sequencer.reset : Sequencer :=
  { opBusy := false, opc := 0#8, opr := 0#24, pageCnt := 0#4, colCnt := 0#8, initIdx := 0#5, pos := 0 }

/-- The sink at power-on (R65). -/
def Sink.powerOn : Sink :=
  { phase := .unconfigured, ram := [], page := none, colLo := none, colHi := none, on := some false }

/-- An environment that has chosen nothing ahead, with a shifter that never stops (log 3, log 4). -/
def Environment.reset : Environment :=
  { buttons := [], miso := [], pace := [], wedge := none, draws := 0 }

/-- The host right after block reset: the reference host is about to run its startup and has presented nothing (R180,
R182, R204). Its registers hold the values the startup gives them (log 6). -/
def HostAgent.reset : HostAgent :=
  { queue := [], loop := .boot, blinkEn := false, delay := Config.delayInit, mode := .normal, ind := true,
    eMode := false, eUp := false, eDown := false, log := [] }

/-- The machine right after block reset (R43, R220), the device just powered on (R65), the reference host about to start
(R182). -/
def State.reset : State :=
  { spi := Transport.reset
    lines := { cs := .deasserted, dc := .command, rst := .high }
    seq := Sequencer.reset
    inp := { prev := Vector.replicate 3 false, settle := Config.settleDefault }
    res := { resByte := 0#8, resEdge := false, port := 0#8 }
    sink := Sink.powerOn
    env := Environment.reset
    host := HostAgent.reset
    trace := [] }

end Sys2Proof.Machine
end

