-- ==== Sys2Proof/Machine/Flags.lean ====
section
/-! DEFINITION. The flags (spec/10_state.md R40, R25) and the conditions of the sequencer's waits. TXE, RXNE, OP_BUSY and
RES_EDGE are registers of the state; SPI_BSY is derived. No flag is a side effect of arithmetic. -/

namespace Sys2Proof.Machine

/-- SPI_BSY = (TXE = 0) or (BITCNT != 0) (R25). -/
def Transport.busy (t : Transport) : Bool := !t.txe || t.bitcnt != 0#4

/-- Whether the condition of a wait holds now. -/
def WaitCond.holds : WaitCond → State → Bool
  | .txe, s => s.spi.txe
  | .rxne, s => s.spi.rxne
  | .idle, s => !s.spi.busy
  | .idleIfEnabled, s => !s.spi.cfg.spiEn || !s.spi.busy

end Sys2Proof.Machine
end

