-- ==== Sys2Proof/Machine/Operands.lean ====
section
/-! DEFINITION. Every operand form: the operand fields sliced from OPR (spec/30_encoding.md R82), the pattern function
(spec/44_pattern_renderer.md R150, R151, R155), and the byte a `TransportWrite` is given. -/

namespace Sys2Proof.Machine

/-- `b = OPR[7:0]` (R82). -/
def Sequencer.oprByte (q : Sequencer) : Byte := q.opr.extractLsb' 0 8

/-- `page = OPR[10:8]` (R82). -/
def Sequencer.oprPage (q : Sequencer) : BitVec 3 := q.opr.extractLsb' 8 3

/-- `column = OPR[6:0]` (R82). -/
def Sequencer.oprColumn (q : Sequencer) : BitVec 7 := q.opr.extractLsb' 0 7

/-- `inv = OPR[0]` (R82). -/
def Sequencer.oprInv (q : Sequencer) : Bool := q.opr.extractLsb' 0 1 == 1#1

/-- `i = OPR[1:0]` (R82). -/
def Sequencer.oprButton (q : Sequencer) : BitVec 2 := q.opr.extractLsb' 0 2

/-- The page-select command byte `0xB0 + p` (R87). -/
def pageCommand (p : Byte) : Byte := Config.cmdPageBase + p

/-- The column-low command byte `0x00 + column[3:0]` (R88, D14). -/
def colLoCommand (c : BitVec 7) : Byte := Config.cmdColLo + (c.extractLsb' 0 4).setWidth 8

/-- The column-high command byte `0x10 + column[6:4]` (R88, D14). -/
def colHiCommand (c : BitVec 7) : Byte := Config.cmdColHi + (c.extractLsb' 4 3).setWidth 8

/-- `cell_x = column div 16` (R150). -/
def cellX (column : Nat) : Nat := column / Config.cellWidth

/-- `cell_y = page` (R150). -/
def cellY (page : Nat) : Nat := page

/-- `pattern(inv, page, column)` (R151). -/
def pattern (inv : Bool) (page column : Nat) : Byte :=
  if ((cellX column + cellY page) % 2 == 1) ^^ inv then Config.byteOn else Config.byteOff

/-- The byte handed to the transport, read from the sequencer registers. -/
def ByteSrc.value : ByteSrc → Sequencer → Byte
  | .lit b, _ => b
  | .operand, q => q.oprByte
  | .pageOfCounter, q => pageCommand (q.pageCnt.setWidth 8)
  | .pageOfOperand, q => pageCommand (q.oprPage.setWidth 8)
  | .colLoOfOperand, q => colLoCommand q.oprColumn
  | .colHiOfOperand, q => colHiCommand q.oprColumn
  | .initEntry, q => Config.initSeqAt q.initIdx.toNat
  | .patternByte, q => pattern q.oprInv q.pageCnt.toNat q.colCnt.toNat

end Sys2Proof.Machine
end

