-- ==== Sys2Proof/Machine/Sink.lean ====
section
/-! DEFINITION. Display RAM as canonical plain data, and the reference sink that reacts to the block's events
(spec/20_memory.md R50 to R59, R65 to R72). -/

namespace Sys2Proof.Machine

/-! ## Display RAM -/

/-- The address of a display cell: the linear index of R55. -/
def displayAddr (page : BitVec 3) (column : BitVec 7) : Nat := page.toNat * Config.nCols + column.toNat

/-- What a cell nothing has written reads as: unknown (R65, R66, U11). -/
def Memory.unlisted : Option Byte := none

/-- One cell of display RAM. The block never reads it (R52); claims about the picture do. -/
def Memory.read (a : Nat) : Memory → Option Byte
  | [] => Memory.unlisted
  | (x, v) :: m => if a = x then some v else Memory.read a m

/-- A one-byte write, keeping the addresses rising. No byte is what an unlisted cell reads as, so nothing is removed. -/
def Memory.write (a : Nat) (b : Byte) : Memory → Memory
  | [] => [(a, b)]
  | (x, v) :: m =>
    if a < x then (a, b) :: (x, v) :: m
    else if a = x then (a, b) :: m
    else (x, v) :: Memory.write a b m

/-- The canonical form: addresses strictly rising, all inside the 1024 cells of R50. -/
abbrev Memory.wf (m : Memory) : Prop := m.Pairwise (fun x y => x.1 < y.1) ∧ ∀ x ∈ m, x.1 < Config.nPages * Config.nCols

/-! ## The sink -/

/-- The sink broken: RAM, pointer and `on` are unknown (R72). -/
def Sink.brokenSink : Sink :=
  { phase := .broken, ram := [], page := none, colLo := none, colHi := none, on := none }

/-- `Line(RST, low)`, in any phase (R66). -/
def Sink.resetLow (_ : Sink) : Sink :=
  { phase := .resetLow false, ram := [], page := none, colLo := none, colHi := none, on := some false }

/-- `Line(RST, high)` (R66). -/
def Sink.resetHigh (k : Sink) : Sink :=
  match k.phase with
  | .resetLow true => { k with phase := .resetHigh }
  | .resetLow false => Sink.brokenSink
  | .unconfigured => k
  | .resetHigh => k
  | .config _ => k
  | .ready => k
  | .broken => k

/-- `Wait(ResetHold, n)`, at least 10 ms whatever `n` is (R66). -/
def Sink.held (k : Sink) : Sink :=
  match k.phase with
  | .resetLow _ => { k with phase := .resetLow true }
  | .resetHigh => { k with phase := .config 0 }
  | .unconfigured => k
  | .config _ => k
  | .ready => k
  | .broken => k

/-- The phase after the expected configuration byte number `n` (R68). -/
def Sink.configured (n : Fin Config.nInit) (k : Sink) : Sink :=
  if h : n.val + 1 < Config.nInit then { k with phase := .config ⟨n.val + 1, h⟩ }
  else { k with phase := .ready, on := some true }

/-- A command byte in phase Ready: the four forms of R69, anything else breaks the sink (R71). -/
def Sink.command (b : Byte) (k : Sink) : Sink :=
  if 0xB0#8 ≤ b ∧ b ≤ 0xB7#8 then { k with page := some ((b - 0xB0#8).setWidth 3) }
  else if b ≤ 0x0F#8 then { k with colLo := some (b.setWidth 4) }
  else if 0x10#8 ≤ b ∧ b ≤ 0x17#8 then { k with colHi := some ((b - 0x10#8).setWidth 3) }
  else if b = 0xAF#8 then { k with on := some true }
  else Sink.brokenSink

/-- The pointer after a data write at column `c` (R70). -/
def Sink.advance (c : BitVec 7) (k : Sink) : Sink :=
  if c.toNat + 1 < Config.nCols then
    { k with colHi := some ((c + 1#7).extractLsb' 4 3), colLo := some ((c + 1#7).extractLsb' 0 4) }
  else { k with page := none, colLo := none, colHi := none }

/-- Where a data byte goes in phase Ready, when the pointer is known (R69). -/
def Sink.pointer (k : Sink) : Option (BitVec 3 × BitVec 7) :=
  match k.page, k.colHi, k.colLo with
  | some p, some h, some l => some (p, h ++ l)
  | none, _, _ => none
  | some _, none, _ => none
  | some _, some _, none => none

/-- A data byte in phase Ready (R69). -/
def Sink.store (b : Byte) (k : Sink) : Sink :=
  match k.pointer with
  | some (p, c) => Sink.advance c { k with ram := k.ram.write (displayAddr p c) b }
  | none => Sink.brokenSink

/-- A byte accepted as a command or as data (R67 to R69). -/
def Sink.accept (kind : Dc) (b : Byte) (k : Sink) : Sink :=
  match k.phase, kind with
  | .unconfigured, _ => k
  | .resetLow _, _ => k
  | .broken, _ => k
  | .resetHigh, _ => Sink.brokenSink
  | .config n, .command => if b = Config.initSeqAt n.val then Sink.configured n k else Sink.brokenSink
  | .config _, .data => Sink.brokenSink
  | .ready, .command => Sink.command b k
  | .ready, .data => Sink.store b k

/-- The sink's reaction to one event of the trace; it sees the latches CS and DC (R65 to R69). A byte sent while CS is
deasserted is ignored (R67, G3). -/
def Sink.react (l : Lines) (e : Event) (k : Sink) : Sink :=
  match e with
  | .lineRst .low => k.resetLow
  | .lineRst .high => k.resetHigh
  | .wait .resetHold _ => k.held
  | .wait .settle _ => k
  | .byte b =>
    match l.cs with
    | .asserted => k.accept l.dc b
    | .deasserted => k
  | .lineCs _ => k
  | .lineDc _ => k
  | .sample _ _ => k
  | .rx _ => k

end Sys2Proof.Machine
end

