-- ==== Sys2Proof/Machine/Ops.lean ====
section
/-! DEFINITION. The shared operations: events and drives (spec/00_scope.md R11), draws of the environment, the shifter's
four rules (spec/41_serial_transport.md R105 to R108), waiting, and the registers of the input side. Taking an exception
and returning from one do not exist on this hardware: the block has no exception, no interrupt and no trap
(spec/60_exceptions.md R200, R201, R204); a `wait_until` that never ends takes their place (R203). -/

namespace Sys2Proof.Machine

/-! ## Events and drives -/

/-- `emit(e)`: append `e` to the trace; the sink reacts to it (R11, R65). -/
def State.emit (e : Event) (s : State) : State :=
  { s with trace := s.trace ++ [e], sink := s.sink.react s.lines e }

/-- `drive(CS, v)` (R11, R27). -/
def State.driveCs (v : Cs) (s : State) : State :=
  { s with lines := { s.lines with cs := v } }.emit (.lineCs v)

/-- `drive(DC, v)` (R11, R28). -/
def State.driveDc (v : Dc) (s : State) : State :=
  { s with lines := { s.lines with dc := v } }.emit (.lineDc v)

/-- `drive(RST, v)` (R11, R29). -/
def State.driveRst (v : Rst) (s : State) : State :=
  { s with lines := { s.lines with rst := v } }.emit (.lineRst v)

/-- `Delay(k, n)`: the delay primitive always answers, so the delay is one event (R11, R163, D15). -/
def State.delay (k : DelayKind) (n : Count) (s : State) : State := s.emit (.wait k n)

/-! ## Draws -/

/-- Count one draw. -/
def State.drew (s : State) : State := { s with env := { s.env with draws := s.env.draws + 1 } }

/-- The level the environment shows on the sampled input line (R37, R160). -/
def State.buttonLevel (s : State) : Level :=
  match s.env.buttons with
  | l :: _ => l
  | [] => Config.drawLevel s.env.draws

/-- The state after that choice is used up. -/
def State.afterButton (s : State) : State :=
  match s.env.buttons with
  | _ :: rest => { s with env := { s.env with buttons := rest } }
  | [] => s.drew

/-- The level of MISO at a rise of SCK (R107). -/
def State.misoLevel (s : State) : Level :=
  match s.env.miso with
  | l :: _ => l
  | [] => Config.drawMiso s.env.draws

/-- The state after that choice is used up. -/
def State.afterMiso (s : State) : State :=
  match s.env.miso with
  | _ :: rest => { s with env := { s.env with miso := rest } }
  | [] => s.drew

/-- How many steps the shifter takes at this turn. -/
def State.paceNow (s : State) : Nat :=
  match s.env.pace with
  | n :: _ => n
  | [] => Config.drawPace s.env.draws

/-- The state after that choice is used up. -/
def State.afterPace (s : State) : State :=
  match s.env.pace with
  | _ :: rest => { s with env := { s.env with pace := rest } }
  | [] => s.drew

/-! ## The shifter -/

/-- Rule R105 is enabled. -/
def Transport.canLoad (t : Transport) : Bool := t.cfg.spiEn && t.bitcnt == 0#4 && !t.txe

/-- Rule R106 is enabled. -/
def Transport.canLead (t : Transport) : Bool := t.bitcnt != 0#4 && !t.half

/-- Rule R107 is enabled. -/
def Transport.canTrail (t : Transport) : Bool := t.bitcnt != 0#4 && t.half

/-- R105, load. -/
def State.shifterLoad (s : State) : State :=
  { s with spi := { s.spi with shift := s.spi.txbuf, txe := true, bitcnt := 8#4, half := false } }

/-- R106, leading edge: the clock falls, MOSI takes SHIFT[7]. -/
def State.shifterLead (s : State) : State :=
  { s with spi := { s.spi with sck := false, mosi := s.spi.shift.msb, half := true } }

/-- R108, byte completion. With an unread byte in RXBUF what it holds afterwards is a draw (U4). -/
def State.byteComplete (s : State) : State :=
  let s := if s.spi.rxne then { s.drew with spi := { s.spi with rxbuf := Config.drawOverrun s.env.draws } }
    else { s with spi := { s.spi with rxbuf := s.spi.shift } }
  { s with spi := { s.spi with rxne := true } }.emit (.rx s.spi.shift)

/-- R107, trailing edge: the clock rises, MISO is sampled into SHIFT; the eighth one completes the byte. -/
def State.shifterTrail (s : State) : State :=
  let m := s.misoLevel
  let s := s.afterMiso
  let s := { s with spi := { s.spi with
      sck := true
      shift := s.spi.shift.extractLsb' 0 7 ++ BitVec.ofBool m
      bitcnt := s.spi.bitcnt - 1#4
      half := false } }
  if s.spi.bitcnt = 0#4 then s.byteComplete else s

/-- Whether the shifter has stopped for ever (R110). -/
def Environment.stopped (e : Environment) : Bool := e.wedge == some 0

/-- One step of a shifter that will stop is used up (R110). -/
def State.spendStep (s : State) : State :=
  match s.env.wedge with
  | some (n + 1) => { s with env := { s.env with wedge := some n } }
  | some 0 => s
  | none => s

/-- Whether a step of the shifter is enabled and the shifter still takes steps. -/
def State.shifterActive (s : State) : Bool :=
  (s.spi.canLoad || s.spi.canLead || s.spi.canTrail) && !s.env.stopped

/-- The one enabled step of the shifter (R105 to R107; at most one is enabled). -/
def State.shifterStep (s : State) : State :=
  if s.spi.canLoad then s.shifterLoad.spendStep
  else if s.spi.canLead then s.shifterLead.spendStep
  else s.shifterTrail.spendStep

/-- Let the shifter take at most `n` steps. -/
def State.shifterRun : Nat → State → State
  | 0, s => s
  | n + 1, s => if s.shifterActive then State.shifterRun n s.shifterStep else s

/-- The shifter's turn between two steps of the sequencer: it takes some number of its enabled steps, of its own
choosing. -/
def State.shifterTurn (s : State) : State :=
  if s.shifterActive then s.afterPace.shifterRun s.paceNow else s

/-- Let the shifter step until `c` holds, at most `fuel` times. -/
def State.shiftUntil (c : WaitCond) : Nat → State → State
  | 0, s => s
  | fuel + 1, s =>
    if c.holds s then s
    else if s.shifterActive then State.shiftUntil c fuel s.shifterStep
    else s

/-- More steps than the shifter can take without a new byte: the byte in SHIFT has at most 15 bits left, each of two
edges, and the byte in TXBUF takes one load and sixteen edges. -/
def waitFuel : Nat := 64

/-- `wait_until(c)` (R11): the shifter is the only agent that moves. The sequencer goes on when `c` holds, and stands
still when the shifter has no step left (R203, R211). -/
def State.waitUntil (c : WaitCond) (s : State) : Progress :=
  if c.holds (s.shiftUntil c waitFuel) then .moved (s.shiftUntil c waitFuel)
  else .waits (s.shiftUntil c waitFuel)

/-! ## The transport's registers -/

/-- `TXBUF <- b ; TXE <- 0 ; emit(Byte(b))` (R102). -/
def State.loadTx (b : Byte) (s : State) : State :=
  { s with spi := { s.spi with txbuf := b, txe := false } }.emit (.byte b)

/-- `v <- RXBUF ; RXNE <- 0 ; RES_BYTE <- v` (R104). -/
def State.takeRx (s : State) : State :=
  { s with spi := { s.spi with rxne := false }, res := { s.res with resByte := s.spi.rxbuf } }

/-- SPI_CFG after SPI_INIT (R21, R101). -/
def SpiCfg.fixed : SpiCfg :=
  { spiEn := true, mstr := true, cpol := true, cpha := true, ssm := true, lsbFirst := false, br := Config.spiDiv }

/-- The assignments of SPI_INIT (R101). -/
def State.configureSpi (s : State) : State :=
  { s with spi := { s.spi with
      cfg := SpiCfg.fixed, bitcnt := 0#4, half := false, txe := true, rxne := false, sck := true } }

/-! ## The input registers -/

/-- PREV[i] (R33). -/
def Inputs.getPrev (i : BitVec 2) (p : Inputs) : Bool :=
  if h : i.toNat < 3 then p.prev[i.toNat] else false

/-- `PREV[i] <- v` (R33). -/
def Inputs.setPrev (i : BitVec 2) (v : Bool) (p : Inputs) : Inputs :=
  if h : i.toNat < 3 then { p with prev := p.prev.set i.toNat v } else p

/-- Whether a sampled level counts as active (R160). -/
def active (i : BitVec 2) (l : Level) : Bool := l == Config.btnActiveLevel i

/-- The body of POLL_EDGE (R162): sample, compare with PREV[i], record, wait out the settle delay on an edge, report. -/
def State.pollButton (i : BitVec 2) (s : State) : State :=
  let l := s.buttonLevel
  let s := s.afterButton.emit (.sample i l)
  let edge := active i l && !s.inp.getPrev i
  let s := { s with inp := s.inp.setPrev i (active i l) }
  let s := if edge then s.shifterTurn.delay .settle s.inp.settle else s
  { s with res := { s.res with resEdge := edge } }

end Sys2Proof.Machine
end

