-- ==== Sys2Proof/Machine/ControlLoop.lean ====
section
/-! DEFINITION. The host: the queue of operation words it presents, and the reference host, the Control Loop, which is
outside the block (spec/46_host_control_loop.md R180 to R191). The Control Loop acts only when its last operation has
completed and it has presented nothing further. -/

namespace Sys2Proof.Machine

/-- Present words, after those already waiting. -/
def HostAgent.present (ws : List OpWord) (h : HostAgent) : HostAgent := { h with queue := h.queue ++ ws }

/-- Drive the indicator line (R190). -/
def HostAgent.driveInd (l : Level) (h : HostAgent) : HostAgent :=
  { h with ind := l, log := h.log ++ [.indicator l] }

/-- `Delay(Blink, DELAY)`, the host's own call on the delay primitive (R187). -/
def HostAgent.blinkWait (h : HostAgent) : HostAgent := { h with log := h.log ++ [.blinkDelay h.delay] }

/-- The other Display Mode (R185). -/
def DisplayMode.flip : DisplayMode → DisplayMode
  | .normal => .inverted
  | .inverted => .normal

/-- The `inv` operand of a mode (R92). -/
def DisplayMode.inv : DisplayMode → Bool
  | .normal => false
  | .inverted => true

/-- R182, the operations of startup. -/
def HostAgent.doBoot (h : HostAgent) : HostAgent :=
  { h.present [encode .spiInit, encode .init, encode (.render false)] with loop := .setup }

/-- R182, the values the Control Loop starts with. -/
def HostAgent.doSetup (h : HostAgent) : HostAgent :=
  { h with delay := Config.delayInit, mode := .normal, blinkEn := false, loop := .sampleMode }.driveInd true

/-- R184, the mode edge. -/
def HostAgent.doModeEdge (h : HostAgent) : HostAgent :=
  { h with blinkEn := h.blinkEn ^^ h.eMode, loop := .upEdge }

/-- R185, the up edge: double and clamp, flip the mode, redraw. -/
def HostAgent.doUpEdge (h : HostAgent) : HostAgent :=
  if h.eUp then
    { h.present [encode (.render h.mode.flip.inv)] with
        delay := min (2 * h.delay) Config.delayMax, mode := h.mode.flip, loop := .downEdge }
  else { h with loop := .downEdge }

/-- R186, the down edge: halve and clamp. -/
def HostAgent.doDownEdge (h : HostAgent) : HostAgent :=
  if h.eDown then { h with delay := max (h.delay / 2) Config.delayMin, loop := .blink }
  else { h with loop := .blink }

/-- R187, the blink phase; the next iteration follows (R188). -/
def HostAgent.doBlink (h : HostAgent) : HostAgent :=
  if h.blinkEn then { (((h.driveInd false).blinkWait).driveInd true).blinkWait with loop := .sampleMode }
  else { h.driveInd true with loop := .sampleMode }

/-- The verdict of the last POLL_EDGE, as the port handed it over (R84, R183). -/
def State.polledEdge (s : State) : Bool := s.res.port == 0x01#8

/-- One action of the Control Loop (R182 to R188). -/
def State.loopStep (s : State) : State :=
  match s.host.loop with
  | .off => s
  | .boot => { s with host := s.host.doBoot }
  | .setup => { s with host := s.host.doSetup }
  | .sampleMode => { s with host := { s.host.present [encode (.pollEdge 0#2)] with loop := .sampleUp } }
  | .sampleUp =>
    { s with host := { s.host.present [encode (.pollEdge 1#2)] with eMode := s.polledEdge, loop := .sampleDown } }
  | .sampleDown =>
    { s with host := { s.host.present [encode (.pollEdge 2#2)] with eUp := s.polledEdge, loop := .modeEdge } }
  | .modeEdge => { s with host := { s.host with eDown := s.polledEdge }.doModeEdge }
  | .upEdge => { s with host := s.host.doUpEdge }
  | .downEdge => { s with host := s.host.doDownEdge }
  | .blink => { s with host := s.host.doBlink }

/-- What happens when the port is free and no word waits: the Control Loop acts, or, where none runs, the shifter takes
its enabled step if it has one (R5, R208, R220). -/
def State.idleStep (s : State) : State :=
  match s.host.loop with
  | .off => if s.shifterActive then s.shifterStep else s
  | .boot => s.loopStep
  | .setup => s.loopStep
  | .sampleMode => s.loopStep
  | .sampleUp => s.loopStep
  | .sampleDown => s.loopStep
  | .modeEdge => s.loopStep
  | .upEdge => s.loopStep
  | .downEdge => s.loopStep
  | .blink => s.loopStep

/-- The word on the operation port, and the state in which it has been taken from the queue (R81). -/
def State.fetchWord (s : State) : Option (OpWord × State) :=
  match s.host.queue with
  | [] => none
  | w :: rest => some (w, { s with host := { s.host with queue := rest } })

/-- `s` with word `w` as the next one presented on a free port. -/
def State.presentNext (w : OpWord) (s : State) : State :=
  { s with host := { s.host with queue := w :: s.host.queue }, seq := { s.seq with opBusy := false } }

/-! ## Block reset -/

/-- What a block reset leaves of the host (R182, R204, R222): words not yet accepted are lost, the registers are at their
start values, and the Control Loop begins again with SPI_INIT and INIT. Another host stays attached and starts its own
program again from outside. The record of past events is kept. -/
def HostAgent.restart (h : HostAgent) : HostAgent :=
  { HostAgent.reset with loop := if h.loop = .off then .off else .boot, log := h.log }

/-- What a block reset leaves of the environment (R204): a shifter that had stopped takes steps again, so that the reset
recovers a block stalled by it. The choices still ahead stay, a stop that has not come yet among them (log 4). -/
def Environment.recover (e : Environment) : Environment := { e with wedge := if e.stopped then none else e.wedge }

/-- Block reset in a running system (R220, R221): every register of the block at its reset value, a stopped shifter
recovered (R204, log 4), the host starting again (R182, R204), the device, the rest of the environment and the trace as they
were, no event. It is something done to the machine from outside, not a step of it (log 18). -/
def State.blockReset (s : State) : State :=
  { s with
    spi := State.reset.spi
    lines := State.reset.lines
    seq := State.reset.seq
    inp := State.reset.inp
    res := State.reset.res
    env := s.env.recover
    host := s.host.restart }

/-- A power cycle of the whole system (R204, R210, R222): a block reset, which recovers a stopped shifter (log 4), and the
device loses its state too (R65). -/
def State.powerCycle (s : State) : State := { s.blockReset with sink := Sink.powerOn }

end Sys2Proof.Machine
end

