-- ==== Sys2Proof/Machine/Sequencer.lean ====
section
/-! DEFINITION. The sequencer: one step, a run of steps, acceptance and completion of an operation
(spec/30_encoding.md R81, R84; spec/10_state.md R30, R39; spec/00_scope.md R12), and the lists of steps the operations
share: `TransportWrite`, `Frame`, the reset pulse, the page select. -/

namespace Sys2Proof.Machine

/-- Rewrite the sequencer registers. -/
def State.setSeq (q : Sequencer) (s : State) : State := { s with seq := q }

/-- One step of the sequencer. Before a step that others can see the shifter has its turn. -/
def SeqStep.run : SeqStep → State → Progress
  | .wait c, s => s.waitUntil c
  | .driveCs v, s => .moved (s.shifterTurn.driveCs v)
  | .driveDc v, s => .moved (s.shifterTurn.driveDc v)
  | .driveRst v, s => .moved (s.shifterTurn.driveRst v)
  | .load src, s => .moved (s.shifterTurn.loadTx (src.value s.seq))
  | .takeByte, s => .moved s.shifterTurn.takeRx
  | .resetHold, s => .moved (s.shifterTurn.delay .resetHold Config.resetHold)
  | .configure, s => .moved s.configureSpi
  | .clearPage, s => .moved (s.setSeq { s.seq with pageCnt := 0#4 })
  | .incPage, s => .moved (s.setSeq { s.seq with pageCnt := s.seq.pageCnt + 1#4 })
  | .clearCol, s => .moved (s.setSeq { s.seq with colCnt := 0#8 })
  | .incCol, s => .moved (s.setSeq { s.seq with colCnt := s.seq.colCnt + 1#8 })
  | .clearIdx, s => .moved (s.setSeq { s.seq with initIdx := 0#5 })
  | .incIdx, s => .moved (s.setSeq { s.seq with initIdx := s.seq.initIdx + 1#5 })
  | .poll, s => .moved (s.shifterTurn.pollButton s.seq.oprButton)
  | .writeSettle, s => .moved { s with inp := { s.inp with settle := s.seq.opr } }

/-- Count a step taken. -/
def State.tickPos (s : State) : State := s.setSeq { s.seq with pos := s.seq.pos + 1 }

/-- Take the steps of a list in order, as far as the waits let the sequencer go. -/
def advance : List SeqStep → State → Progress
  | [], s => .moved s
  | a :: rest, s =>
    match a.run s with
    | .moved t => advance rest t.tickPos
    | .waits t => .waits t

/-- Acceptance of an operation word: OP_BUSY <- 1, OPC <- w[31:24], OPR <- w[23:0] (R81). -/
def State.acceptWord (w : OpWord) (s : State) : State :=
  s.setSeq { s.seq with opBusy := true, opc := opcodeOf w, opr := operandOf w, pos := 0 }

/-- The result handed to the host with completion (R84); for an operation without one it is a draw (U3). -/
def State.resultPort (s : State) : Byte :=
  if s.seq.opc = 0x03#8 then s.res.resByte
  else if s.seq.opc = 0x30#8 then (BitVec.ofBool s.res.resEdge).setWidth 8
  else Config.drawResult s.env.draws

/-- Completion: OP_BUSY <- 0, and the result goes to the host (R81, R84). -/
def State.complete (s : State) : State :=
  { s.drew with seq := { s.seq with opBusy := false, pos := 0 }, res := { s.res with port := s.resultPort } }

/-- An operation completes when its pseudocode has run to its end; at a wait that cannot end it stays where it is
(R12, R203). -/
def Progress.finish : Progress → State
  | .moved s => s.complete
  | .waits s => s

/-- Run an operation: its word, and the steps of its pseudocode. A word presented while OP_BUSY is 1 is not accepted, and
nothing of it happens (R81). -/
def operation (w : OpWord) (steps : List SeqStep) (s : State) : State :=
  if s.seq.opBusy then s else (advance steps (s.acceptWord w)).finish

/-! ## Shared lists of steps -/

/-- The list repeated `n` times: a loop whose counter a step of the body advances. -/
def repeatSteps : Nat → List SeqStep → List SeqStep
  | 0, _ => []
  | n + 1, body => body ++ repeatSteps n body

/-- `TransportWrite(b)` (R102). -/
def transportWrite (src : ByteSrc) : List SeqStep := [.wait .txe, .load src]

/-- `Frame(k, b)`, steps F1 to F6 (R120). -/
def frame (k : Dc) (src : ByteSrc) : List SeqStep :=
  [.wait .idle, .driveCs .asserted, .driveDc k, .wait .txe, .load src, .wait .idle, .driveCs .deasserted]

/-- The four lines of RESET, which INIT begins with (R123, R140). -/
def resetPulse : List SeqStep := [.driveRst .low, .resetHold, .driveRst .high, .resetHold]

/-- The three command frames that select page PAGE_CNT, column 0 (R125, R152). -/
def selectCountedPage : List SeqStep :=
  frame .command .pageOfCounter ++ frame .command (.lit Config.cmdColLo) ++ frame .command (.lit Config.cmdColHi)

/-- One data frame and the advance of COL_CNT (R125, R152). -/
def columnSteps (src : ByteSrc) : List SeqStep := frame .data src ++ [.incCol]

/-- The body of the page loop: select the page, then 128 data frames (R125, R152). -/
def pageSteps (src : ByteSrc) : List SeqStep :=
  selectCountedPage ++ [.clearCol] ++ repeatSteps Config.nCols (columnSteps src) ++ [.incPage]

/-- The page loop of CLEAR and RENDER (R125, R152). -/
def screenSteps (src : ByteSrc) : List SeqStep := [.clearPage] ++ repeatSteps Config.nPages (pageSteps src)

end Sys2Proof.Machine
end

