-- ==== Sys2Proof/Machine/DebouncedInput.lean ====
section
/-! DEFINITION. The operations of the Debounced Input (spec/45_debounced_input.md): POLL_EDGE, SET_SETTLE. -/

namespace Sys2Proof.Machine

/-- POLL_EDGE i (R162). -/
def pollEdgeSteps : List SeqStep := [.poll]

/-- SET_SETTLE n (R164). -/
def setSettleSteps : List SeqStep := [.writeSettle]

/-- The meaning of POLL_EDGE i (R162). An index at or above N_BTN is a reserved word, which a model refuses (R83, U2). -/
def execPollEdge (i : BitVec 2) (s : State) : Host.Outcome State Fault Refusal :=
  if Config.hasButton i then .next (operation (encode (.pollEdge i)) pollEdgeSteps s)
  else .refused (.reservedWord (.absentButton i))

/-- The meaning of SET_SETTLE n (R164). -/
def execSetSettle (n : Count) (s : State) : Host.Outcome State Fault Refusal :=
  .next (operation (encode (.setSettle n)) setSettleSteps s)

end Sys2Proof.Machine
end

