-- ==== Sys2Proof/Machine/DisplayFramer.lean ====
section
/-! DEFINITION. The operations of the Display Protocol Driver (spec/42_display_framer.md, spec/43_init_sequencer.md):
RESET, COMMAND, DATA, INIT, CLEAR, SELECT_PAGE. -/

namespace Sys2Proof.Machine

/-- RESET (R123). -/
def resetSteps : List SeqStep := resetPulse

/-- COMMAND b (R121). -/
def commandSteps : List SeqStep := frame .command .operand

/-- DATA b (R122). -/
def dataSteps : List SeqStep := frame .data .operand

/-- INIT (R140): the reset pulse, then 26 command frames over the table INIT_SEQ. -/
def initSteps : List SeqStep :=
  resetPulse ++ [.clearIdx] ++ repeatSteps Config.nInit (frame .command .initEntry ++ [.incIdx])

/-- CLEAR (R125). -/
def clearSteps : List SeqStep := screenSteps (.lit Config.byteOff)

/-- SELECT_PAGE page, column (R124). -/
def selectPageSteps : List SeqStep :=
  frame .command .pageOfOperand ++ frame .command .colLoOfOperand ++ frame .command .colHiOfOperand

/-- The meaning of RESET (R123). It resets the device, not the block. -/
def execReset (s : State) : Host.Outcome State Fault Refusal :=
  .next (operation (encode .reset) resetSteps s)

/-- The meaning of COMMAND b (R121, R96). -/
def execCommand (b : Byte) (s : State) : Host.Outcome State Fault Refusal :=
  .next (operation (encode (.command b)) commandSteps s)

/-- The meaning of DATA b (R122). -/
def execData (b : Byte) (s : State) : Host.Outcome State Fault Refusal :=
  .next (operation (encode (.data b)) dataSteps s)

/-- The meaning of INIT (R140). -/
def execInit (s : State) : Host.Outcome State Fault Refusal :=
  .next (operation (encode .init) initSteps s)

/-- The meaning of CLEAR (R125). -/
def execClear (s : State) : Host.Outcome State Fault Refusal :=
  .next (operation (encode .clear) clearSteps s)

/-- The meaning of SELECT_PAGE page, column (R124); a column other than 0 follows the formula of R88 (D14). -/
def execSelectPage (page : BitVec 3) (column : BitVec 7) (s : State) : Host.Outcome State Fault Refusal :=
  .next (operation (encode (.selectPage page column)) selectPageSteps s)

end Sys2Proof.Machine
end

