-- ==== Sys2Proof/Machine/PatternRenderer.lean ====
section
/-! DEFINITION. The operation of the Pattern Renderer (spec/44_pattern_renderer.md): RENDER. -/

namespace Sys2Proof.Machine

/-- RENDER inv (R152): the page loop, every data byte the pattern of (OPR[0], PAGE_CNT, COL_CNT). -/
def renderSteps : List SeqStep := screenSteps .patternByte

/-- The meaning of RENDER inv (R152, R154). -/
def execRender (inv : Bool) (s : State) : Host.Outcome State Fault Refusal :=
  .next (operation (encode (.render inv)) renderSteps s)

end Sys2Proof.Machine
end

