-- ==== Sys2Proof/Machine/SerialTransport.lean ====
section
/-! DEFINITION. The operations of the Serial Transport (spec/41_serial_transport.md): SPI_INIT, WRITE, READ. -/

namespace Sys2Proof.Machine

/-- SPI_INIT (R101): wait for idle when the transport is enabled, then write the configuration. -/
def spiInitSteps : List SeqStep := [.wait .idleIfEnabled, .configure]

/-- WRITE b (R103): it completes when the buffer is loaded, before the byte is on the wire. -/
def writeSteps : List SeqStep := transportWrite .operand

/-- READ (R104): wait for RXNE, then RES_BYTE <- RXBUF and RXNE <- 0. -/
def readSteps : List SeqStep := [.wait .rxne, .takeByte]

/-- The meaning of SPI_INIT (R101). -/
def execSpiInit (s : State) : Host.Outcome State Fault Refusal :=
  .next (operation (encode .spiInit) spiInitSteps s)

/-- The meaning of WRITE b (R103). -/
def execWrite (b : Byte) (s : State) : Host.Outcome State Fault Refusal :=
  .next (operation (encode (.write b)) writeSteps s)

/-- The meaning of READ (R104). -/
def execRead (s : State) : Host.Outcome State Fault Refusal :=
  .next (operation (encode .read) readSteps s)

end Sys2Proof.Machine
end

