-- ==== Sys2Proof/Machine/Resume.lean ====
section
/-! DEFINITION. A block that is busy goes on with its operation from the sequencer position (spec/10_state.md R30, R39;
spec/60_exceptions.md R203, R211). -/

namespace Sys2Proof.Machine

/-- The steps of the operation with opcode `opc` (R81). -/
def stepsOf (opc : BitVec 8) : Option (List SeqStep) :=
  if opc = 0x01#8 then some spiInitSteps
  else if opc = 0x02#8 then some writeSteps
  else if opc = 0x03#8 then some readSteps
  else if opc = 0x10#8 then some resetSteps
  else if opc = 0x11#8 then some commandSteps
  else if opc = 0x12#8 then some dataSteps
  else if opc = 0x13#8 then some initSteps
  else if opc = 0x14#8 then some clearSteps
  else if opc = 0x15#8 then some selectPageSteps
  else if opc = 0x20#8 then some renderSteps
  else if opc = 0x30#8 then some pollEdgeSteps
  else if opc = 0x31#8 then some setSettleSteps
  else none

/-- The rest of the running operation. At a wait that cannot end nothing moves, for ever (R203). -/
def resume (s : State) : Host.Outcome State Fault Refusal :=
  match stepsOf s.seq.opc with
  | some steps => .next (advance (steps.drop s.seq.pos) s).finish
  | none => .fault (.noOperationRunning s.seq.opc)

end Sys2Proof.Machine
end

