-- ==== Sys2Proof/Machine/Dispatch.lean ====
section
/-! DEFINITION. One arm per operation (spec/30_encoding.md R81). -/

namespace Sys2Proof.Machine

def exec (i : Instr) (s : State) : Host.Outcome State Fault Refusal :=
  match i with
  | .spiInit => Sys2Proof.Machine.execSpiInit s
  | .write b => Sys2Proof.Machine.execWrite b s
  | .read => Sys2Proof.Machine.execRead s
  | .reset => Sys2Proof.Machine.execReset s
  | .command b => Sys2Proof.Machine.execCommand b s
  | .data b => Sys2Proof.Machine.execData b s
  | .init => Sys2Proof.Machine.execInit s
  | .clear => Sys2Proof.Machine.execClear s
  | .selectPage page column => Sys2Proof.Machine.execSelectPage page column s
  | .render inv => Sys2Proof.Machine.execRender inv s
  | .pollEdge button => Sys2Proof.Machine.execPollEdge button s
  | .setSettle n => Sys2Proof.Machine.execSetSettle n s

end Sys2Proof.Machine
end

