-- ==== Sys2Proof/Machine/Step.lean ====
section
/-! DEFINITION. One step of the whole (spec/00_scope.md R5, spec/30_encoding.md R81, R83). -/

namespace Sys2Proof.Machine

/-- Run the word taken from the port, or refuse it by name when it is reserved (R82, R83). -/
def execWord (w : OpWord) (s : State) : Host.Outcome State Fault Refusal :=
  match decode w with
  | .ok i => exec i s
  | .error e => .refused (.reservedWord e)

/-- One step. While OP_BUSY is 1 the running operation goes on and the host is blocked; on a free port the host's next
word is accepted and its operation runs to its end or to a wait that cannot end; with no word waiting the other agents
have their turn. -/
def step (s : State) : Host.Outcome State Fault Refusal :=
  if s.seq.opBusy then resume s
  else
    match s.fetchWord with
    | some (w, t) => execWord w t
    | none => .next s.idleStep

/-- `s` with the instruction word `w` as the next one presented on the operation port, the port being free. -/
def State.withFetchWord (s : State) (nbits w : Nat) : State :=
  s.presentNext (BitVec.ofNat 32 (w % 2 ^ nbits))

end Sys2Proof.Machine
end

