-- ==== Sys2Proof/Machine/Trace.lean ====
section
/-! DEFINITION. Reading the trace (spec/00_scope.md R9, R10; spec/30_encoding.md R85): the byte level, the two frame
abbreviations, the counts of spec/70_reset_and_hazards.md R238, and the level each latch puts on its line. -/

namespace Sys2Proof.Machine

/-- Rx events are left out of byte-level traces (R10). -/
def Event.byteLevel : Event → Bool
  | .rx _ => false
  | .lineCs _ => true
  | .lineDc _ => true
  | .lineRst _ => true
  | .byte _ => true
  | .wait _ _ => true
  | .sample _ _ => true

/-- The byte-level trace, the normative one (R4, R10). -/
def State.byteTrace (s : State) : List Event := s.trace.filter Event.byteLevel

/-- The four events of a frame of kind `k` (R10, R85). -/
def frameEvents (k : Dc) (b : Byte) : List Event :=
  [.lineCs .asserted, .lineDc k, .byte b, .lineCs .deasserted]

/-- CMD(b) (R10). -/
def CMD (b : Byte) : List Event := frameEvents .command b

/-- DAT(b) (R10). -/
def DAT (b : Byte) : List Event := frameEvents .data b

/-- The four events of the device reset pulse (R123). -/
def resetEvents : List Event :=
  [.lineRst .low, .wait .resetHold Config.resetHold, .lineRst .high, .wait .resetHold Config.resetHold]

/-- The level of the chip-select line, CS_ACTIVE_LEVEL = 0 (R7, R9, D5). -/
def Cs.level : Cs → Level
  | .asserted => false
  | .deasserted => true

/-- The level of the data/command line, DC_DATA_LEVEL = 1 (R7, R9, D6). -/
def Dc.level : Dc → Level
  | .data => true
  | .command => false

/-- The level of the device reset line (R9). -/
def Rst.level : Rst → Level
  | .low => false
  | .high => true

/-- Event counts, by the columns of R238. -/
structure EventCounts where
  bytes : Nat
  lines : Nat
  waits : Nat
  samples : Nat
  deriving DecidableEq, Repr

/-- Whether an event is a `Line` event. -/
def Event.isLine : Event → Bool
  | .lineCs _ => true
  | .lineDc _ => true
  | .lineRst _ => true
  | .byte _ => false
  | .wait _ _ => false
  | .sample _ _ => false
  | .rx _ => false

/-- Whether an event is a `Byte` event. -/
def Event.isByte : Event → Bool
  | .byte _ => true
  | .lineCs _ => false
  | .lineDc _ => false
  | .lineRst _ => false
  | .wait _ _ => false
  | .sample _ _ => false
  | .rx _ => false

/-- Whether an event is a `Wait` event. -/
def Event.isWait : Event → Bool
  | .wait _ _ => true
  | .lineCs _ => false
  | .lineDc _ => false
  | .lineRst _ => false
  | .byte _ => false
  | .sample _ _ => false
  | .rx _ => false

/-- Whether an event is a `Sample` event. -/
def Event.isSample : Event → Bool
  | .sample _ _ => true
  | .lineCs _ => false
  | .lineDc _ => false
  | .lineRst _ => false
  | .byte _ => false
  | .wait _ _ => false
  | .rx _ => false

/-- How many events of each kind a trace holds (R238). -/
def countEvents (t : List Event) : EventCounts :=
  { bytes := t.countP Event.isByte
    lines := t.countP Event.isLine
    waits := t.countP Event.isWait
    samples := t.countP Event.isSample }

end Sys2Proof.Machine
end

