-- ==== Sys2Proof/Safety.lean ====
section
/-! DEFINITION. The terms in which claims about the machine are stated: when the transport serves, what a list of frames
does, what a stuck block is, and the invariants of a run. -/

namespace Sys2Proof

/-- The operations that send frames: every one whose pseudocode uses the frame procedure (R121, R122, R124, R125, R140,
R152). -/
def Instr.SendsFrames : Instr → Prop
  | .spiInit => False
  | .write _ => False
  | .read => False
  | .reset => False
  | .command _ => True
  | .data _ => True
  | .init => True
  | .clear => True
  | .selectPage _ _ => True
  | .render _ => True
  | .pollEdge _ => False
  | .setSettle _ => False

end Sys2Proof

namespace Sys2Proof.Machine

/-! ## Conditions -/

/-- The operation port accepts a word (R81). -/
def State.PortFree (s : State) : Prop := s.seq.opBusy = false

/-- The transport is enabled and its shifter never stops: SPI_INIT has run, and fairness, the model's named option, is
taken (R110, D36). -/
def State.Serves (s : State) : Prop := s.spi.cfg.spiEn = true ∧ s.env.wedge = none

/-- The shifter has stopped, for as long as the block is not reset: the wedged peripheral (R110, R204). -/
def State.Wedged (s : State) : Prop := s.env.wedge = some 0

/-- Transport idle: SPI_BSY = 0 (R25). -/
def State.TransportIdle (s : State) : Prop := s.spi.busy = false

/-- How many bytes are still in the transport, in TXBUF and in SHIFT (R22, R23, R25). -/
def Transport.bytesHeld (t : Transport) : Nat := (if t.txe then 0 else 1) + if t.bitcnt = 0#4 then 0 else 1

/-- The shifter never stops after a block reset: it never stops, or it has stopped and the reset recovers it (R110, R204,
log 4). Left out is a shifter that is still to stop. -/
def State.RunsAfterReset (s : State) : Prop := s.env.wedge = none ∨ s.Wedged

/-- The block is stuck: OP_BUSY stays 1 and nothing changes, whatever number of steps is taken (R203, R211). -/
def State.StuckForEver (s : State) : Prop := s.seq.opBusy = true ∧ ∀ n, Sys2Proof.core.run n s = .next s

/-- No agent but the shifter has anything to do (R208). -/
def State.OnlyShifter (s : State) : Prop := s.PortFree ∧ s.host.queue = [] ∧ s.host.loop = .off

/-! ## Frames -/

/-- A frame as the host of the device sees it: its kind and its byte. -/
abbrev Frame := Dc × Byte

/-- The events of a list of frames (R85). -/
def framesEvents (fs : List Frame) : List Event := fs.flatMap fun f => frameEvents f.1 f.2

/-- The sink after a list of frames (R67). -/
def Sink.acceptAll (fs : List Frame) (k : Sink) : Sink := fs.foldl (fun k f => k.accept f.1 f.2) k

/-- The three frames of `SELECT_PAGE page, column` (R87, R88, R124). -/
def selectFrames (page : BitVec 3) (column : BitVec 7) : List Frame :=
  [(.command, 0xB0#8 + page.setWidth 8), (.command, 0x00#8 + (column.extractLsb' 0 4).setWidth 8),
   (.command, 0x10#8 + (column.extractLsb' 4 3).setWidth 8)]

/-- The frames of one page of a full-screen operation whose byte at (page, column) is `f page column` (R125, R152). -/
def pageFrames (f : Nat → Nat → Byte) (page : Nat) : List Frame :=
  [(.command, 0xB0#8 + BitVec.ofNat 8 page), (.command, 0x00#8), (.command, 0x10#8)]
    ++ (List.range Config.nCols).map fun c => (.data, f page c)

/-- The 1048 frames of a full-screen operation (R125, R152, R153). -/
def screenFrames (f : Nat → Nat → Byte) : List Frame := (List.range Config.nPages).flatMap (pageFrames f)

/-- The 26 frames of INIT (R140). -/
def initFrames : List Frame := Config.initSeq.map fun b => (.command, b)

/-- The sink after the device reset pulse, whatever it was before (R66). -/
def Sink.afterPulse : Sink :=
  { phase := .config 0, ram := [], page := none, colLo := none, colHi := none, on := some false }

/-! ## Frames of an operation: what stays as it was -/

/-- What no operation but its owner changes (R44): SPI_CFG, PREV and SETTLE, RES_BYTE and RES_EDGE, the host, and the
levels the environment has chosen for the input lines. -/
structure Kept (s t : State) : Prop where
  cfg : t.spi.cfg = s.spi.cfg
  inp : t.inp = s.inp
  resByte : t.res.resByte = s.res.resByte
  resEdge : t.res.resEdge = s.res.resEdge
  host : t.host = s.host
  buttons : t.env.buttons = s.env.buttons
  wedge : s.env.wedge = none → t.env.wedge = none

/-- The sequencer's counters are as they were. -/
structure CountersKept (s t : State) : Prop where
  pageCnt : t.seq.pageCnt = s.seq.pageCnt
  colCnt : t.seq.colCnt = s.seq.colCnt
  initIdx : t.seq.initIdx = s.seq.initIdx

/-- An operation has completed (R12, R81): the port is free, and OPC and OPR hold its word. -/
structure Completed (w : OpWord) (t : State) : Prop where
  free : t.seq.opBusy = false
  opc : t.seq.opc = w.extractLsb' 24 8
  opr : t.seq.opr = w.extractLsb' 0 24

/-- The transport at the end of a framer operation: idle, clock at its idle level, a received byte in the buffer
(R120, R126, R127, R235). TXBUF, SHIFT, RXBUF and MOSI hold what the bytes left there (R105 to R108). -/
structure SentAll (t : State) : Prop where
  idle : t.TransportIdle
  sck : t.spi.sck = true
  rxne : t.spi.rxne = true

/-- An operation sent exactly the frames `fs`, the last of kind `k` (R120, R126, R127): its events, its effect on the
sink, the lines it leaves, and what it leaves alone. -/
structure SentFrames (w : OpWord) (fs : List Frame) (k : Dc) (s t : State) : Prop where
  completed : Completed w t
  events : t.byteTrace = s.byteTrace ++ framesEvents fs
  sink : t.sink = s.sink.acceptAll fs
  lines : t.lines = { cs := .deasserted, dc := k, rst := s.lines.rst }
  sent : SentAll t
  kept : Kept s t

/-! ## The startup of the reference host -/

/-- The checkerboard of Display Mode Normal (R151, R154). -/
def normalPicture (page column : Nat) : Byte := if (column / 16 + page) % 2 = 1 then 0xFF#8 else 0x00#8

/-- The byte-level events of the Control Loop's startup (R182): the reset pulse, INIT_SEQ, the normal checkerboard. -/
def startupEvents : List Event :=
  [.lineRst .low, .wait .resetHold Config.resetHold, .lineRst .high, .wait .resetHold Config.resetHold]
    ++ Config.initSeq.flatMap CMD ++ framesEvents (screenFrames normalPicture)

/-- The system when the Control Loop's startup is over (R182, R73): the port free and the lines at rest, the device Ready
and on with the normal checkerboard in every cell, the Control Loop's registers at their start values and its first
iteration next. -/
structure StartedUp (t : State) : Prop where
  free : t.PortFree
  lines : t.lines = { cs := .deasserted, dc := .data, rst := .high }
  sent : SentAll t
  ready : t.sink.phase = .ready
  on : t.sink.on = some true
  picture : ∀ page < 8, ∀ column < 128,
    t.sink.ram.read (page * 128 + column) = some (normalPicture page column)
  delay : t.host.delay = 250000
  mode : t.host.mode = .normal
  blinkEn : t.host.blinkEn = false
  ind : t.host.ind = true
  loop : t.host.loop = .sampleMode
  queue : t.host.queue = []

/-! ## Sequences of operations -/

/-- Run operations one after the other, each after the one before has completed (R93). -/
def execAll : List Instr → State → Host.Outcome State Fault Refusal
  | [], s => .next s
  | i :: is, s =>
    match exec i s with
    | .next t => execAll is t
    | .fault r => .fault r
    | .refused r => .refused r

/-- The list of simpler operations with the same trace (R94); any other operation is its own expansion. -/
def expansionOf : Instr → List Instr
  | .selectPage page column => (selectFrames page column).map fun f => .command f.2
  | .clear =>
    (List.range 8).flatMap fun p => .selectPage (BitVec.ofNat 3 p) 0#7 :: List.replicate 128 (.data 0x00#8)
  | .init => .reset :: Config.initSeq.map .command
  | .render inv =>
    (List.range 8).flatMap fun p =>
      .selectPage (BitVec.ofNat 3 p) 0#7 :: (List.range 128).map fun c => .data (pattern inv p c)
  | .spiInit => [.spiInit]
  | .write b => [.write b]
  | .read => [.read]
  | .reset => [.reset]
  | .command b => [.command b]
  | .data b => [.data b]
  | .pollEdge i => [.pollEdge i]
  | .setSettle n => [.setSettle n]

/-- Poll one button `n` times; the results in order (R165). -/
def pollResults (i : BitVec 2) : Nat → State → List Bool
  | 0, _ => []
  | n + 1, s =>
    match exec (.pollEdge i) s with
    | .next t => t.res.resEdge :: pollResults i n t
    | .fault _ => []
    | .refused _ => []

/-- `e_k = s_k and not s_(k-1)`, with `before` for the sample before the first (R165). -/
def risingEdges (before : Bool) : List Bool → List Bool
  | [] => []
  | x :: xs => (x && !before) :: risingEdges x xs

/-! ## Invariants -/

/-- Display RAM is canonical and inside the 1024 cells (R50, R59). -/
def MemoryInv (s : State) : Prop := s.sink.ram.wf

/-- The sink knows a RAM cell or a pointer only in phase Ready, and nothing at all when broken (R65, R66, R72, R73). -/
def SinkInv (s : State) : Prop :=
  (s.sink.phase ≠ .ready →
    s.sink.ram = [] ∧ s.sink.page = none ∧ s.sink.colLo = none ∧ s.sink.colHi = none) ∧
  (s.sink.phase = .broken → s.sink.on = none) ∧
  (∀ h, s.sink.phase = .resetLow h → s.sink.on = some false)

/-- The transport: SPI_CFG has its one legal value once enabled (R21), BITCNT is at most 8, nothing is shifted before
SPI_INIT, and the clock is at its idle level except in the second half of a bit period (R23, R26, R109). -/
def TransportInv (s : State) : Prop :=
  (s.spi.cfg.spiEn = true → s.spi.cfg = SpiCfg.fixed ∧ s.spi.sck = !s.spi.half) ∧
  (s.spi.cfg.spiEn = false → s.spi.bitcnt = 0#4) ∧
  s.spi.bitcnt ≤ 8#4 ∧
  (s.spi.half = true → s.spi.bitcnt ≠ 0#4)

/-- CS as the steps taken leave it. -/
def csAfter (steps : List SeqStep) : Cs :=
  steps.foldl (fun c a => match a with | .driveCs v => v | _ => c) .deasserted

/-- RST as the steps taken leave it. -/
def rstAfter (steps : List SeqStep) : Rst :=
  steps.foldl (fun c a => match a with | .driveRst v => v | _ => c) .high

/-- Between operations chip-select is deasserted and the device reset line is high; inside one, both are what the steps
of the operation up to the sequencer position drove (R27, R29, R126). -/
def LinesInv (s : State) : Prop :=
  (s.seq.opBusy = false → s.lines.cs = .deasserted ∧ s.lines.rst = .high) ∧
  (s.seq.opBusy = true → ∃ steps, stepsOf s.seq.opc = some steps ∧
    s.lines.cs = csAfter (steps.take s.seq.pos) ∧ s.lines.rst = rstAfter (steps.take s.seq.pos))

/-- The Control Loop's blink delay is between its bounds (R181, R185, R186). -/
def DelayInv (s : State) : Prop := Config.delayMin ≤ s.host.delay ∧ s.host.delay ≤ Config.delayMax

end Sys2Proof.Machine
end

