-- ==== Sys2Proof/Certificates/Slice0/Obligations.lean ====
section
/-! DEFINITION. The statements about the model, for the provers. Each docstring names the rules of the spec it formalises,
and says where a clause rests on a choice of the model (log n). -/

open Sys2Proof Sys2Proof.Machine

/-! ## Encoding -/

/-- R82, R83: decoding the word of a well-formed operation gives that operation, with every operand at every value. -/
def Obligations.DecodeEncodeRoundTrip : Prop :=
  ∀ i : Instr, i.wf = true → decode (encode i) = .ok i

/-- R82, R95: a word that decodes is the one word of its operation, and the operation is well formed. -/
def Obligations.EncodeDecodeRoundTrip : Prop :=
  ∀ (w : OpWord) (i : Instr), decode w = .ok i → encode i = w ∧ i.wf = true

/-- R82, R83: a word decodes exactly when it is of a row of the table (`w and mask = match`) and, for POLL_EDGE, its index
is below N_BTN; and it decodes to the row's operation. -/
def Obligations.DecodeFollowsOpcodeTable : Prop :=
  ∀ w : OpWord,
    (∀ i, decode w = .ok i → ∃ r ∈ opTable, w &&& r.mask = r.pattern ∧ r.mnemonic = i.mnemonic) ∧
    (∀ r ∈ opTable, w &&& r.mask = r.pattern →
      (r.mnemonic = "POLL_EDGE" → (w.extractLsb' 0 2).toNat < Config.nBtn) →
      ∃ i, decode w = .ok i ∧ i.mnemonic = r.mnemonic)

/-- R83: a word that matches no row, or a POLL_EDGE with an index at or above N_BTN, is refused by name; so is the
operation itself. -/
def Obligations.ReservedWordsAreRefused : Prop :=
  (∀ (s : State) (w : OpWord) (rest : List OpWord), s.PortFree → s.host.queue = w :: rest →
    ((∀ r ∈ opTable, w &&& r.mask ≠ r.pattern) ∨
      (w.extractLsb' 24 8 = 0x30#8 ∧ Config.nBtn ≤ (w.extractLsb' 0 2).toNat)) →
    ∃ e, step s = .refused (.reservedWord e)) ∧
  (∀ (i : BitVec 2) (s : State), Config.nBtn ≤ i.toNat →
    exec (.pollEdge i) s = .refused (.reservedWord (.absentButton i)))

/-- R81, R82, vectors V1 and V2: words written out from the encoding decode to the operations they stand for. -/
def Obligations.WrittenWordsDecode : Prop :=
  decode 0x01000000#32 = .ok .spiInit ∧ decode 0x020000A5#32 = .ok (.write 0xA5#8) ∧
  decode 0x03000000#32 = .ok .read ∧ decode 0x10000000#32 = .ok .reset ∧
  decode 0x110000AF#32 = .ok (.command 0xAF#8) ∧ decode 0x120000FF#32 = .ok (.data 0xFF#8) ∧
  decode 0x13000000#32 = .ok .init ∧ decode 0x14000000#32 = .ok .clear ∧
  decode 0x1500077F#32 = .ok (.selectPage 7#3 127#7) ∧ decode 0x20000001#32 = .ok (.render true) ∧
  decode 0x30000001#32 = .ok (.pollEdge 1#2) ∧ decode 0x31001F40#32 = .ok (.setSettle 8000#24) ∧
  decode 0x15000080#32 = .error (.unusedBitSet 0x15#8 0x000080#24) ∧
  decode 0x30000003#32 = .error (.absentButton 3#2)

/-! ## The operation port and the step -/

/-- R5, R81: on a free port the word the host presents is decoded, taken from the queue, and its operation is run. -/
def Obligations.StepRunsPresentedWord : Prop :=
  ∀ (s : State) (w : OpWord) (rest : List OpWord) (i : Instr),
    s.PortFree → s.host.queue = w :: rest → decode w = .ok i →
    step s = exec i { s with host := { s.host with queue := rest } }

/-- R81, R203: while OP_BUSY is 1 no word is taken and the host stands still, and an operation presented is not
accepted. -/
def Obligations.BusyPortBlocksHost : Prop :=
  ∀ s : State, s.seq.opBusy = true →
    (∀ t, step s = .next t → t.host = s.host) ∧
    (∀ i : Instr, i.wf = true → exec i s = .next s)

/-- R220, R208: with no word presented and no Control Loop a step moves the shifter at most: lines, sequencer, inputs,
results, device, host and byte-level trace are as they were. -/
def Obligations.IdleBlockOnlyShifts : Prop :=
  ∀ s : State, s.OnlyShifter →
    ∃ t, step s = .next t ∧ t.lines = s.lines ∧ t.seq = s.seq ∧ t.inp = s.inp ∧ t.res = s.res ∧
      t.sink = s.sink ∧ t.host = s.host ∧ t.spi.cfg = s.spi.cfg ∧ t.spi.txbuf = s.spi.txbuf ∧
      t.byteTrace = s.byteTrace ∧ (s.TransportIdle → t = s)

/-- R43: the values the spec gives for block reset; by R43's own words every one is the spec's choice (D11, D19, D20, D33). -/
def Obligations.ResetLeavesStatedValues : Prop :=
  State.reset.spi.cfg.spiEn = false ∧ State.reset.spi.txe = true ∧ State.reset.spi.bitcnt = 0#4 ∧
  State.reset.spi.half = false ∧ State.reset.spi.rxne = false ∧ State.reset.lines.cs = .deasserted ∧
  State.reset.lines.dc = .command ∧ State.reset.lines.rst = .high ∧ State.reset.seq.opBusy = false ∧
  (∀ i : BitVec 2, State.reset.inp.getPrev i = false) ∧ State.reset.inp.settle = Config.settleDefault

/-- R203, R204, R220 to R222: a block reset ends a stall and puts every register at its reset value, a SETTLE written before
is lost; it emits nothing and the device keeps the state it had. A shifter that had stopped takes steps again (R204). The
host starts again (R204): no word waits, and the Control Loop stands at the first line of its startup. (Block reset as a
function beside the step is log 18, a stopped shifter recovered by it is log 4, a stall as a next state is log 7, the host as
a queue and a Control Loop is log 6.) -/
def Obligations.BlockResetEndsStallAndKeepsDevice : Prop :=
  ∀ s : State, s.StuckForEver →
    ∃ t, t = s.blockReset ∧ t.PortFree ∧ ¬ t.StuckForEver ∧ t.spi.cfg.spiEn = false ∧ t.spi.txe = true ∧
      t.spi.bitcnt = 0#4 ∧ t.spi.half = false ∧ t.spi.rxne = false ∧
      t.lines = { cs := .deasserted, dc := .command, rst := .high } ∧
      (∀ i : BitVec 2, t.inp.getPrev i = false) ∧ t.inp.settle = Config.settleDefault ∧
      t.trace = s.trace ∧ t.sink = s.sink ∧ t.host.queue = [] ∧ (s.host.loop ≠ .off → t.host.loop = .boot) ∧
      ¬ t.Wedged ∧ (s.Wedged → t.env.wedge = none)

/-- R204, R220 to R222: whatever the block was doing, stalled on a stopped shifter included, after a block reset and after a
power cycle SPI_INIT and INIT complete and the device is Ready and on. The premise leaves out only a shifter that is still
to stop. (Block reset and power cycle as functions beside the step are log 18, the recovered shifter is log 4.) -/
def Obligations.BlockResetRecoversBlock : Prop :=
  ∀ s r : State, (r = s.blockReset ∨ r = s.powerCycle) → s.RunsAfterReset →
    ∃ t, execAll [.spiInit, .init] r = .next t ∧ t.PortFree ∧ t.Serves ∧ t.sink.phase = .ready ∧
      t.sink.on = some true ∧ t.byteTrace = s.byteTrace ++ [.lineRst .low, .wait .resetHold Config.resetHold,
        .lineRst .high, .wait .resetHold Config.resetHold] ++ Config.initSeq.flatMap CMD

/-- R43, R65, R210, R220, R222: nothing of the block or of the device survives a power cycle: the registers have their reset
values, SETTLE among them, the sink is Unconfigured with RAM and pointer unknown and the display off, no word waits. (Power
cycle as a function beside the step is log 18, unlisted RAM as unknown is log 2, the host's form is log 6.) -/
def Obligations.PowerCycleLosesEverything : Prop :=
  ∀ s : State, s.powerCycle.sink.phase = .unconfigured ∧ (∀ a, s.powerCycle.sink.ram.read a = none) ∧
    s.powerCycle.sink.page = none ∧ s.powerCycle.sink.colLo = none ∧ s.powerCycle.sink.colHi = none ∧
    s.powerCycle.sink.on = some false ∧ s.powerCycle.inp.settle = Config.settleDefault ∧
    (∀ i : BitVec 2, s.powerCycle.inp.getPrev i = false) ∧ s.powerCycle.PortFree ∧
    s.powerCycle.spi.cfg.spiEn = false ∧ s.powerCycle.spi.txe = true ∧ s.powerCycle.spi.bitcnt = 0#4 ∧
    s.powerCycle.spi.half = false ∧ s.powerCycle.spi.rxne = false ∧
    s.powerCycle.lines = { cs := .deasserted, dc := .command, rst := .high } ∧
    s.powerCycle.trace = s.trace ∧ s.powerCycle.host.queue = [] ∧
    (s.host.loop ≠ .off → s.powerCycle.host.loop = .boot)

/-! ## Serial Transport -/

/-- R101: SPI_INIT completes before SPI_INIT has run, on an idle transport and whenever the transport serves; it writes the
configuration, sets TXE and SCK, clears RXNE, BITCNT and HALF, emits no event and touches nothing else. On an enabled
transport it waits for SPI_BSY = 0 first: each byte still in the transport is completed by the shifter, which adds one Rx
event for it (R108, vector V18). (A shifter that never stops is log 4, a wait as the shifter's moves until it ends is log 5;
the wait that a stopped shifter never ends is in WedgedShifterStallsWaits.) -/
def Obligations.SpiInitConfigures : Prop :=
  ∀ s : State, s.PortFree → (s.spi.cfg.spiEn = false ∨ s.TransportIdle ∨ s.Serves) →
    ∃ t, exec .spiInit s = .next t ∧ Completed 0x01000000#32 t ∧
      t.spi.cfg = { spiEn := true, mstr := true, cpol := true, cpha := true, ssm := true, lsbFirst := false,
                    br := Config.spiDiv } ∧
      t.spi.txe = true ∧ t.spi.rxne = false ∧ t.spi.bitcnt = 0#4 ∧ t.spi.half = false ∧ t.spi.sck = true ∧
      t.byteTrace = s.byteTrace ∧ t.spi.txbuf = s.spi.txbuf ∧
      (s.spi.cfg.spiEn = false ∨ s.TransportIdle → t.trace = s.trace ∧
        t.spi = { s.spi with
          cfg := t.spi.cfg, txe := true, rxne := false, bitcnt := 0#4, half := false, sck := true }) ∧
      (s.spi.cfg.spiEn = true →
        ∃ rx : List Byte, rx.length = s.spi.bytesHeld ∧ t.trace = s.trace ++ rx.map .rx) ∧
      t.lines = s.lines ∧ t.inp = s.inp ∧ t.sink = s.sink ∧ t.host = s.host ∧
      t.res.resByte = s.res.resByte ∧ t.res.resEdge = s.res.resEdge ∧ CountersKept s t ∧
      t.env.buttons = s.env.buttons

/-- R102, R103, R112: WRITE waits for a free buffer, loads it and completes; the byte has not left TXBUF. The lines are
not touched, and a byte sent with chip-select deasserted does not reach the device (R67). -/
def Obligations.WriteLoadsBuffer : Prop :=
  ∀ (b : Byte) (s : State), s.PortFree → (s.spi.txe = true ∨ s.Serves) →
    ∃ t, exec (.write b) s = .next t ∧ Completed (0x02#8 ++ (0#16 ++ b)) t ∧
      t.spi.txbuf = b ∧ t.spi.txe = false ∧ t.byteTrace = s.byteTrace ++ [.byte b] ∧ t.lines = s.lines ∧
      (s.lines.cs = .deasserted → t.sink = s.sink) ∧
      (s.lines.cs = .asserted → t.sink = s.sink.accept s.lines.dc b) ∧ Kept s t ∧ CountersKept s t ∧
      (s.TransportIdle → t.spi = { s.spi with txbuf := b, txe := false })

/-- R104, R84: READ completes when a byte has arrived or is on its way through a serving transport; RES_BYTE and the
result are what RXBUF holds, RXNE is 0, nothing else is touched. -/
def Obligations.ReadTakesReceivedByte : Prop :=
  ∀ s : State, s.PortFree → (s.spi.rxne = true ∨ (s.Serves ∧ s.spi.busy = true)) →
    ∃ t, exec .read s = .next t ∧ Completed 0x03000000#32 t ∧
      t.res.resByte = t.spi.rxbuf ∧ t.res.port = t.res.resByte ∧ t.spi.rxne = false ∧
      (s.spi.rxne = true → s.TransportIdle →
        t.res.resByte = s.spi.rxbuf ∧ t.trace = s.trace ∧ t.spi = { s.spi with rxne := false }) ∧
      t.byteTrace = s.byteTrace ∧ t.lines = s.lines ∧ t.sink = s.sink ∧ t.inp = s.inp ∧
      t.res.resEdge = s.res.resEdge ∧ t.spi.cfg = s.spi.cfg ∧ t.host = s.host ∧ CountersKept s t ∧
      t.env.buttons = s.env.buttons

/-- R230: a READ when RXNE = 0 and the transport is idle waits for ever; nothing in the transport, on the lines or in the
trace has changed. -/
def Obligations.ReadWithNothingComingIsStuck : Prop :=
  ∀ s : State, s.PortFree → s.spi.rxne = false → s.TransportIdle →
    ∃ t, exec .read s = .next t ∧ t.StuckForEver ∧ t.spi = s.spi ∧ t.lines = s.lines ∧ t.trace = s.trace ∧
      t.sink = s.sink ∧ t.host = s.host

/-- R110: with a shifter that never stops and an enabled transport, every operation other than a READ completes. -/
def Obligations.FairShifterCompletesEveryOperation : Prop :=
  ∀ (i : Instr) (s : State), i.wf = true → i ≠ .read → s.PortFree → s.Serves →
    ∃ t, exec i s = .next t ∧ Completed (encode i) t

/-- R110, R203: a wedged shifter, at each of the waits R203 lists. With a byte still in the transport every operation that
sends frames at once waits at F1 for ever with nothing changed on the lines and in the trace; on an idle transport a frame
waits at F5 for ever with chip-select asserted. A repeated SPI_INIT on a busy transport, a WRITE with TXE = 0 and a READ with
RXNE = 0 wait for ever with nothing changed in the transport, on the lines and in the trace. (A stall as a next state
stepping to itself is log 7, the wedge as a field of the state is log 4.) -/
def Obligations.WedgedShifterStallsWaits : Prop :=
  (∀ (i : Instr) (s : State),
    ((∃ b, i = .command b) ∨ (∃ b, i = .data b) ∨ (∃ p c, i = .selectPage p c) ∨ i = .clear ∨
      ∃ inv, i = .render inv) →
    s.PortFree → s.Wedged → s.spi.busy = true →
    ∃ t, exec i s = .next t ∧ t.StuckForEver ∧ t.lines = s.lines ∧ t.trace = s.trace ∧ t.spi = s.spi ∧
      t.sink = s.sink) ∧
  (∀ (i : Instr) (k : Dc) (b : Byte) (s : State),
    ((k = .command ∧ i = .command b) ∨ (k = .data ∧ i = .data b)) →
    s.PortFree → s.Wedged → s.TransportIdle →
    ∃ t, exec i s = .next t ∧ t.StuckForEver ∧ t.lines = { cs := .asserted, dc := k, rst := s.lines.rst } ∧
      t.trace = s.trace ++ [.lineCs .asserted, .lineDc k, .byte b]) ∧
  (∀ (i : Instr) (s : State), s.PortFree → s.Wedged →
    ((i = .spiInit ∧ s.spi.cfg.spiEn = true ∧ s.spi.busy = true) ∨ ((∃ b, i = .write b) ∧ s.spi.txe = false) ∨
      (i = .read ∧ s.spi.rxne = false)) →
    ∃ t, exec i s = .next t ∧ t.StuckForEver ∧ t.lines = s.lines ∧ t.trace = s.trace ∧ t.spi = s.spi ∧
      t.sink = s.sink)

/-- R236, R203: before SPI_INIT the shifter never takes a byte. The first WRITE completes and its byte stays in TXBUF; a
second WRITE and every operation that sends frames never completes; SPI_INIT sets TXE and drops the byte. (That an
operation which never completes is a next state stepping to itself is log 7.) -/
def Obligations.TransportBeforeSpiInit : Prop :=
  ∀ s : State, s.PortFree → s.spi.cfg.spiEn = false → s.spi.bitcnt = 0#4 →
    s.shifterActive = false ∧
    (∀ b, s.spi.txe = true → ∃ t, exec (.write b) s = .next t ∧ t.PortFree ∧ t.spi.txbuf = b ∧
      t.spi.txe = false ∧ t.spi.cfg.spiEn = false ∧ t.spi.bitcnt = 0#4) ∧
    (∀ b, s.spi.txe = false → ∃ t, exec (.write b) s = .next t ∧ t.StuckForEver) ∧
    (∀ i : Instr, ((∃ b, i = .command b) ∨ (∃ b, i = .data b) ∨ (∃ p c, i = .selectPage p c) ∨ i = .clear ∨
        i = .init ∨ ∃ inv, i = .render inv) →
      ∃ t, exec i s = .next t ∧ t.StuckForEver) ∧
    (∃ t, exec .spiInit s = .next t ∧ t.PortFree ∧ t.spi.txe = true ∧ t.trace = s.trace)

/-- R105 to R108: the steps of the shifter, each when it is enabled, with no other agent moving. (One step of the machine for
one step of the shifter is log 5, the level of MISO as a list of the environment's choices is log 3, a shifter that has
stopped is log 4.) -/
def Obligations.ShifterStepsFollowRules : Prop :=
  ∀ s : State, s.OnlyShifter → ¬ s.Wedged →
    (s.spi.cfg.spiEn = true → s.spi.bitcnt = 0#4 → s.spi.txe = false →
      ∃ t, step s = .next t ∧ t.trace = s.trace ∧
        t.spi = { s.spi with shift := s.spi.txbuf, txe := true, bitcnt := 8#4, half := false }) ∧
    (s.spi.bitcnt ≠ 0#4 → s.spi.half = false →
      ∃ t, step s = .next t ∧ t.trace = s.trace ∧
        t.spi = { s.spi with sck := false, mosi := s.spi.shift[7], half := true }) ∧
    (s.spi.bitcnt ≠ 0#4 → s.spi.half = true →
      ∃ t m, step s = .next t ∧ (∀ l rest, s.env.miso = l :: rest → m = l) ∧
        t.spi.sck = true ∧ t.spi.shift = s.spi.shift.extractLsb' 0 7 ++ BitVec.ofBool m ∧
        t.spi.bitcnt = s.spi.bitcnt - 1#4 ∧ t.spi.half = false ∧ t.spi.mosi = s.spi.mosi ∧
        t.spi.txe = s.spi.txe ∧ t.spi.txbuf = s.spi.txbuf ∧ t.spi.cfg = s.spi.cfg ∧
        (s.spi.bitcnt ≠ 1#4 → t.spi.rxne = s.spi.rxne ∧ t.spi.rxbuf = s.spi.rxbuf ∧ t.trace = s.trace) ∧
        (s.spi.bitcnt = 1#4 → t.spi.rxne = true ∧ t.trace = s.trace ++ [.rx t.spi.shift] ∧
          (s.spi.rxne = false → t.spi.rxbuf = t.spi.shift)))

/-- R86, R106, R107, vectors V11 to V13: a byte handed over goes out on MOSI most significant bit first, one bit at each
fall of SCK and still there at the rise, and the eight levels MISO shows at the rises arrive in RXBUF, the first in
bit 7. (The bit order is the spec's decision D7, log 15; the numbers of steps rest on log 5, the list of MISO levels on
log 3, the shifter that never stops on log 4.) -/
def Obligations.ByteOnTheWire : Prop :=
  ∀ (s : State) (m : List Level) (rest : List Level), s.OnlyShifter → s.Serves →
    s.spi.bitcnt = 0#4 → s.spi.txe = false → s.spi.rxne = false → m.length = 8 → s.env.miso = m ++ rest →
    (∀ k, k < 8 → ∃ t u,
      Sys2Proof.core.run (2 * k + 2) s = .next t ∧ t.spi.sck = false ∧ t.spi.mosi = s.spi.txbuf.getMsbD k ∧
      Sys2Proof.core.run (2 * k + 3) s = .next u ∧ u.spi.sck = true ∧ u.spi.mosi = s.spi.txbuf.getMsbD k) ∧
    ∃ v, Sys2Proof.core.run 17 s = .next v ∧ v.TransportIdle ∧ v.spi.rxne = true ∧ v.env.miso = rest ∧
      v.trace = s.trace ++ [.rx v.spi.rxbuf] ∧ ∀ k, k < 8 → m[k]? = some (v.spi.rxbuf.getMsbD k)

/-! ## Display Protocol Driver -/

/-- R120, R121, R126, R127: COMMAND b sends the one frame CMD(b) and completes. -/
def Obligations.CommandSendsOneFrame : Prop :=
  ∀ (b : Byte) (s : State), s.PortFree → s.Serves →
    ∃ t, exec (.command b) s = .next t ∧ SentFrames (0x11#8 ++ (0#16 ++ b)) [(.command, b)] .command s t ∧
      CountersKept s t

/-- R120, R122, R126, R127: DATA b sends the one frame DAT(b) and completes. -/
def Obligations.DataSendsOneFrame : Prop :=
  ∀ (b : Byte) (s : State), s.PortFree → s.Serves →
    ∃ t, exec (.data b) s = .next t ∧ SentFrames (0x12#8 ++ (0#16 ++ b)) [(.data, b)] .data s t ∧ CountersKept s t

/-- R123, R81, R221, R66: RESET pulses the device reset line with both holds, in every state with a free port; of the block
nothing but RST and the port's own OPC and OPR changes, and the device waits for its configuration with RAM and pointer
unknown. (That the pulse leaves the RAM unknown is the spec's own caution in R66, D26, log 2. A byte still in the transport
goes on during the holds, log 5, so the transport is as before when it was idle.) -/
def Obligations.ResetPulsesDeviceLine : Prop :=
  ∀ s : State, s.PortFree →
    ∃ t, exec .reset s = .next t ∧ Completed 0x10000000#32 t ∧
      t.byteTrace = s.byteTrace ++ [.lineRst .low, .wait .resetHold Config.resetHold, .lineRst .high,
        .wait .resetHold Config.resetHold] ∧
      t.lines = { s.lines with rst := .high } ∧ t.sink = Sink.afterPulse ∧ Kept s t ∧ CountersKept s t ∧
      (s.TransportIdle → t.spi = s.spi)

/-- R124, R87, R88: SELECT_PAGE sends `0xB0 + page`, `0x00 + column[3:0]`, `0x10 + column[6:4]` as command frames. -/
def Obligations.SelectPageSendsThreeCommands : Prop :=
  ∀ (page : BitVec 3) (column : BitVec 7) (s : State), s.PortFree → s.Serves →
    ∃ t, exec (.selectPage page column) s = .next t ∧
      SentFrames (0x15#8 ++ (0#13 ++ (page ++ (0#1 ++ column)))) (selectFrames page column) .command s t ∧
      CountersKept s t

/-- R125: CLEAR sends, page by page, the page select and 128 zero data bytes; its counters end at their bounds. -/
def Obligations.ClearSendsZeroScreen : Prop :=
  ∀ s : State, s.PortFree → s.Serves →
    ∃ t, exec .clear s = .next t ∧ SentFrames 0x14000000#32 (screenFrames fun _ _ => 0x00#8) .data s t ∧
      t.seq.pageCnt = 8#4 ∧ t.seq.colCnt = 128#8 ∧ t.seq.initIdx = s.seq.initIdx

/-- R151, R152: RENDER sends, page by page, the page select and the 128 bytes of the checkerboard. -/
def Obligations.RenderSendsCheckerboard : Prop :=
  ∀ (inv : Bool) (s : State), s.PortFree → s.Serves →
    ∃ t, exec (.render inv) s = .next t ∧
      SentFrames (0x20#8 ++ (0#23 ++ BitVec.ofBool inv))
        (screenFrames fun page column =>
          if ((column / 16 + page) % 2 == 1) ^^ inv then 0xFF#8 else 0x00#8) .data s t ∧
      t.seq.pageCnt = 8#4 ∧ t.seq.colCnt = 128#8 ∧ t.seq.initIdx = s.seq.initIdx

/-- R140, R141: INIT pulses the device reset line and sends the 26 bytes of INIT_SEQ as command frames, in order, the last
one 0xAF, and no data frame. -/
def Obligations.InitSendsTable : Prop :=
  Config.initSeq.length = 26 ∧ Config.initSeq.getLast? = some 0xAF#8 ∧
  ∀ s : State, s.PortFree → s.Serves →
    ∃ t, exec .init s = .next t ∧ Completed 0x13000000#32 t ∧
      t.byteTrace = s.byteTrace ++ [.lineRst .low, .wait .resetHold Config.resetHold, .lineRst .high,
        .wait .resetHold Config.resetHold] ++ Config.initSeq.flatMap CMD ∧
      t.lines = { cs := .deasserted, dc := .command, rst := .high } ∧ SentAll t ∧ Kept s t ∧
      t.seq.initIdx = 26#5 ∧ t.seq.pageCnt = s.seq.pageCnt ∧ t.seq.colCnt = s.seq.colCnt

/-- R94: the four composite operations and their expansions both complete, with exactly the same byte-level trace and the
same effect on the device and the lines. (OP_BUSY = 0 on both sides says that they complete, since a stall is a next state
too: log 7.) -/
def Obligations.CompositesEqualExpansions : Prop :=
  ∀ (i : Instr) (s : State), s.PortFree → s.Serves →
    ((∃ p c, i = .selectPage p c) ∨ i = .clear ∨ i = .init ∨ ∃ inv, i = .render inv) →
    ∃ t u, exec i s = .next t ∧ execAll (expansionOf i) s = .next u ∧ t.PortFree ∧ u.PortFree ∧
      t.byteTrace = u.byteTrace ∧ t.sink = u.sink ∧ t.lines = u.lines

/-- R238: how many Byte, Line, Wait and Sample events each operation adds. -/
def Obligations.EventCountsOfOperations : Prop :=
  ∀ (i : Instr) (s t : State) (ev : List Event), i.wf = true → s.PortFree → s.Serves →
    exec i s = .next t → t.PortFree → t.byteTrace = s.byteTrace ++ ev →
    match i with
    | .spiInit => countEvents ev = ⟨0, 0, 0, 0⟩
    | .write _ => countEvents ev = ⟨1, 0, 0, 0⟩
    | .read => countEvents ev = ⟨0, 0, 0, 0⟩
    | .reset => countEvents ev = ⟨0, 2, 2, 0⟩
    | .command _ => countEvents ev = ⟨1, 3, 0, 0⟩
    | .data _ => countEvents ev = ⟨1, 3, 0, 0⟩
    | .init => countEvents ev = ⟨26, 80, 2, 0⟩
    | .clear => countEvents ev = ⟨1048, 3144, 0, 0⟩
    | .selectPage _ _ => countEvents ev = ⟨3, 9, 0, 0⟩
    | .render _ => countEvents ev = ⟨1048, 3144, 0, 0⟩
    | .pollEdge _ => countEvents ev = ⟨0, 0, if t.res.resEdge then 1 else 0, 1⟩
    | .setSettle _ => countEvents ev = ⟨0, 0, 0, 0⟩

/-! ## The display, end to end -/

/-- R73, R66, R68: from any state of the device, after SPI_INIT and INIT it is Ready and on, every RAM cell and the
pointer unknown. -/
def Obligations.InitMakesDeviceReady : Prop :=
  ∀ s : State, s.PortFree → s.env.wedge = none →
    ∃ t, execAll [.spiInit, .init] s = .next t ∧ t.PortFree ∧ t.Serves ∧ t.sink.phase = .ready ∧
      t.sink.on = some true ∧ (∀ a, t.sink.ram.read a = none) ∧
      t.sink.page = none ∧ t.sink.colLo = none ∧ t.sink.colHi = none

/-- R73: on a Ready device CLEAR makes every one of the 1024 cells 0x00 and leaves the pointer unknown. -/
def Obligations.ClearBlanksDisplay : Prop :=
  ∀ s : State, s.PortFree → s.Serves → s.sink.phase = .ready →
    ∃ t, exec .clear s = .next t ∧ t.PortFree ∧ t.sink.phase = .ready ∧ t.sink.on = s.sink.on ∧
      (∀ page < 8, ∀ column < 128, t.sink.ram.read (page * 128 + column) = some 0x00#8) ∧
      (∀ a, 1024 ≤ a → t.sink.ram.read a = s.sink.ram.read a) ∧
      t.sink.page = none ∧ t.sink.colLo = none ∧ t.sink.colHi = none

/-- R73, R74: on a Ready device RENDER paints the whole checkerboard, whatever the RAM held before. -/
def Obligations.RenderPaintsCheckerboard : Prop :=
  ∀ (inv : Bool) (s : State), s.PortFree → s.Serves → s.sink.phase = .ready →
    ∃ t, exec (.render inv) s = .next t ∧ t.PortFree ∧ t.sink.phase = .ready ∧ t.sink.on = s.sink.on ∧
      (∀ page < 8, ∀ column < 128, t.sink.ram.read (page * 128 + column) =
        some (if ((column / 16 + page) % 2 == 1) ^^ inv then 0xFF#8 else 0x00#8)) ∧
      (∀ a, 1024 ≤ a → t.sink.ram.read a = s.sink.ram.read a) ∧
      t.sink.page = none ∧ t.sink.colLo = none ∧ t.sink.colHi = none

/-- R73: CLEAR and RENDER on a device that is not Ready leave it not Ready and its RAM unknown. The premise is the sink
invariant. -/
def Obligations.UnreadyDeviceShowsNothing : Prop :=
  ∀ (i : Instr) (s : State), (i = .clear ∨ ∃ inv, i = .render inv) →
    s.PortFree → s.Serves → SinkInv s → s.sink.phase ≠ .ready →
    ∃ t, exec i s = .next t ∧ t.PortFree ∧ t.sink.phase ≠ .ready ∧ ∀ a, t.sink.ram.read a = none

/-- R66: what the device does on the events of its reset line and on the holds, in every phase; a low pulse with no hold breaks
it. (That the pulse leaves the RAM unknown is the spec's own caution, D26, log 2; that the sink reacts at the event is
log 11.) -/
def Obligations.SinkFollowsResetLine : Prop :=
  ∀ (l : Lines) (n : Count) (k : Sink),
    (k.react l (.lineRst .low)).phase = .resetLow false ∧ (k.react l (.lineRst .low)).on = some false ∧
    (k.react l (.lineRst .low)).pointer = none ∧ (k.react l (.lineRst .low)).page = none ∧
    (k.react l (.lineRst .low)).colLo = none ∧ (k.react l (.lineRst .low)).colHi = none ∧
    (∀ a, (k.react l (.lineRst .low)).ram.read a = none) ∧
    (k.phase = .resetLow true → k.react l (.lineRst .high) = { k with phase := .resetHigh }) ∧
    (k.phase = .resetLow false → (k.react l (.lineRst .high)).phase = .broken) ∧
    ((∀ h, k.phase ≠ .resetLow h) → k.react l (.lineRst .high) = k) ∧
    (∀ h, k.phase = .resetLow h → k.react l (.wait .resetHold n) = { k with phase := .resetLow true }) ∧
    (k.phase = .resetHigh → k.react l (.wait .resetHold n) = { k with phase := .config 0 }) ∧
    ((∀ h, k.phase ≠ .resetLow h) → k.phase ≠ .resetHigh → k.react l (.wait .resetHold n) = k)

/-- R68, R72, U12: on a device in phase Config(k) the command byte INIT_SEQ[k] leads to Config(k+1), the last one to Ready with
the display on, and nothing else of the device changes; any other command byte, and any data byte, breaks it, and then
nothing is known of it. The block completes all of them. -/
def Obligations.ConfigurationIsChecked : Prop :=
  ∀ (n : Fin 26) (b : Byte) (s : State), s.PortFree → s.Serves → s.sink.phase = .config n →
    (∃ t, exec (.command b) s = .next t ∧ t.PortFree ∧
      (Config.initSeq[n.val]? = some b →
        (∀ h : n.val + 1 < 26, t.sink = { s.sink with phase := .config ⟨n.val + 1, h⟩ }) ∧
        (n.val = 25 → t.sink = { s.sink with phase := .ready, on := some true })) ∧
      (Config.initSeq[n.val]? ≠ some b → t.sink.phase = .broken ∧ t.sink.on = none ∧
        t.sink.page = none ∧ t.sink.colLo = none ∧ t.sink.colHi = none ∧ ∀ a, t.sink.ram.read a = none)) ∧
    (∃ t, exec (.data b) s = .next t ∧ t.PortFree ∧ t.sink.phase = .broken ∧ t.sink.on = none ∧
      t.sink.page = none ∧ t.sink.colLo = none ∧ t.sink.colHi = none ∧ ∀ a, t.sink.ram.read a = none)

/-- R67, R72: a frame to a device that is Unconfigured, held in reset or broken changes nothing of it; one before the second
hold is over breaks it, and then nothing is known of it. -/
def Obligations.FramesOutsideConfiguration : Prop :=
  ∀ (b : Byte) (i : Instr) (s : State), (i = .command b ∨ i = .data b) → s.PortFree → s.Serves →
    ((s.sink.phase = .unconfigured ∨ s.sink.phase = .broken ∨ ∃ h, s.sink.phase = .resetLow h) →
      ∃ t, exec i s = .next t ∧ t.PortFree ∧ t.sink = s.sink) ∧
    (s.sink.phase = .resetHigh →
      ∃ t, exec i s = .next t ∧ t.PortFree ∧ t.sink.phase = .broken ∧ t.sink.on = none ∧
        t.sink.page = none ∧ t.sink.colLo = none ∧ t.sink.colHi = none ∧ ∀ a, t.sink.ram.read a = none)

/-- R69, R70, R54: on a Ready device with its pointer at (page, column), DATA b writes `b` in that one cell, leaves every
other cell as it was, and moves the pointer one column on inside the page; after column 127 it is unknown, which R70 calls
the spec's own caution (D24). -/
def Obligations.DataWritesAtPointer : Prop :=
  ∀ (b : Byte) (page : BitVec 3) (column : BitVec 7) (s : State), s.PortFree → s.Serves →
    s.sink.phase = .ready → s.sink.pointer = some (page, column) →
    ∃ t, exec (.data b) s = .next t ∧ t.PortFree ∧ t.sink.phase = .ready ∧ t.sink.on = s.sink.on ∧
      t.sink.ram.read (page.toNat * 128 + column.toNat) = some b ∧
      (∀ a, a ≠ page.toNat * 128 + column.toNat → t.sink.ram.read a = s.sink.ram.read a) ∧
      (column.toNat < 127 → t.sink.pointer = some (page, column + 1#7)) ∧
      (column.toNat = 127 → t.sink.page = none ∧ t.sink.colLo = none ∧ t.sink.colHi = none)

/-- R53, R69, R88: on a Ready device SELECT_PAGE sets the pointer to (page, column) and leaves every cell as it was. -/
def Obligations.SelectPageSetsPointer : Prop :=
  ∀ (page : BitVec 3) (column : BitVec 7) (s : State), s.PortFree → s.Serves → s.sink.phase = .ready →
    ∃ t, exec (.selectPage page column) s = .next t ∧ t.PortFree ∧ t.sink.pointer = some (page, column) ∧
      t.sink.phase = .ready ∧ t.sink.on = s.sink.on ∧ ∀ a, t.sink.ram.read a = s.sink.ram.read a

/-- R69, R71: on a Ready device a COMMAND byte of one of the four forms leaves every cell as it was; any other byte breaks
the device, and then nothing is known of it. -/
def Obligations.CommandNeverWritesRam : Prop :=
  ∀ (b : Byte) (s : State), s.PortFree → s.Serves → s.sink.phase = .ready →
    ∃ t, exec (.command b) s = .next t ∧ t.PortFree ∧
      (((0xB0#8 ≤ b ∧ b ≤ 0xB7#8) ∨ b ≤ 0x0F#8 ∨ (0x10#8 ≤ b ∧ b ≤ 0x17#8) ∨ b = 0xAF#8) →
        t.sink.phase = .ready ∧ ∀ a, t.sink.ram.read a = s.sink.ram.read a) ∧
      (¬ ((0xB0#8 ≤ b ∧ b ≤ 0xB7#8) ∨ b ≤ 0x0F#8 ∨ (0x10#8 ≤ b ∧ b ≤ 0x17#8) ∨ b = 0xAF#8) →
        t.sink.phase = .broken ∧ t.sink.on = none ∧ ∀ a, t.sink.ram.read a = none)

/-- R226, R70, R53: a DATA with no page select since the last INIT, and a 129th DATA after one page select, break the
device; the block completes every operation all the same. -/
def Obligations.UnselectedDataBreaksDevice : Prop :=
  (∀ (b : Byte) (s : State), s.PortFree → s.Serves →
    ∃ t, execAll [.init, .data b] s = .next t ∧ t.PortFree ∧ t.sink.phase = .broken) ∧
  (∀ (page : BitVec 3) (bs : List Byte) (s : State), s.PortFree → s.Serves → s.sink.phase = .ready →
    bs.length = 129 →
    ∃ t, execAll (.selectPage page 0#7 :: bs.map .data) s = .next t ∧ t.PortFree ∧ t.sink.phase = .broken)

/-- R72: a broken device stays exactly as it is until the device reset line is driven low, whatever the step. -/
def Obligations.BrokenDeviceStaysBroken : Prop :=
  ∀ s t : State, s.sink.phase = .broken → step s = .next t →
    ∃ ev, t.byteTrace = s.byteTrace ++ ev ∧ (t.sink = s.sink ∨ Event.lineRst .low ∈ ev)

/-! ## Pattern Renderer -/

/-- R150, R151: each address belongs to one cell, (column div 16, page), both coordinates below 8 and their sum at most 14; the
pattern byte is 0xFF when that sum is odd exclusive-or inverted, else 0x00; the inverted variant is the exact complement; and
all columns of a cell have the same byte. -/
def Obligations.PatternFollowsCells : Prop :=
  ∀ (page : BitVec 3) (column : BitVec 7),
    cellX column.toNat = (column.extractLsb' 4 3).toNat ∧ cellX column.toNat = column.toNat / 16 ∧
    cellY page.toNat = page.toNat ∧ cellX column.toNat < 8 ∧ cellY page.toNat < 8 ∧
    cellX column.toNat + cellY page.toNat ≤ 14 ∧
    (∀ inv : Bool, pattern inv page.toNat column.toNat =
      if ((column.toNat / 16 + page.toNat) % 2 == 1) ^^ inv then 0xFF#8 else 0x00#8) ∧
    pattern true page.toNat column.toNat = pattern false page.toNat column.toNat ^^^ 0xFF#8 ∧
    (∀ (inv : Bool) (c : BitVec 7), c.extractLsb' 4 3 = column.extractLsb' 4 3 →
      pattern inv page.toNat c.toNat = pattern inv page.toNat column.toNat)

/-- R150, R151, R156: the pattern in its bit form, and the inverted variant as the exact complement. -/
def Obligations.PatternBitForm : Prop :=
  ∀ (inv : Bool) (page : BitVec 3) (column : BitVec 7),
    pattern inv page.toNat column.toNat =
      (if column[4] ^^ page[0] ^^ inv then 0xFF#8 else 0x00#8) ∧
    pattern true page.toNat column.toNat = pattern false page.toNat column.toNat ^^^ 0xFF#8

/-! ## Debounced Input -/

/-- R160 to R162, R84: POLL_EDGE samples the button once; the edge is "active now and not active before"; PREV[i] takes the
sample; a settle delay of SETTLE follows an edge; the verdict is RES_EDGE and the result; nothing else is touched. The
level is the environment's (log 3): the next one it has chosen, if it has. -/
def Obligations.PollEdgeReportsPressEdge : Prop :=
  ∀ (i : BitVec 2) (s : State), i.toNat < Config.nBtn → s.PortFree →
    ∃ t l edge, exec (.pollEdge i) s = .next t ∧ Completed (0x30#8 ++ (0#22 ++ i)) t ∧
      (∀ l' rest, s.env.buttons = l' :: rest → l = l' ∧ t.env.buttons = rest) ∧
      edge = (l == Config.btnActiveLevel i && !s.inp.getPrev i) ∧
      t.inp.getPrev i = (l == Config.btnActiveLevel i) ∧
      (∀ j, j ≠ i → t.inp.getPrev j = s.inp.getPrev j) ∧ t.inp.settle = s.inp.settle ∧
      t.res.resEdge = edge ∧ t.res.port = (if edge then 0x01#8 else 0x00#8) ∧
      t.byteTrace = s.byteTrace ++ [.sample i l] ++ (if edge then [.wait .settle s.inp.settle] else []) ∧
      t.lines = s.lines ∧ t.sink = s.sink ∧ t.res.resByte = s.res.resByte ∧ t.spi.cfg = s.spi.cfg ∧
      t.host = s.host ∧ CountersKept s t ∧ (s.TransportIdle → t.spi = s.spi)

/-- R164: SET_SETTLE n writes SETTLE, emits nothing and touches nothing else. -/
def Obligations.SetSettleWritesSettle : Prop :=
  ∀ (n : Count) (s : State), s.PortFree →
    ∃ t, exec (.setSettle n) s = .next t ∧ Completed (0x31#8 ++ n) t ∧ t.inp.settle = n ∧
      t.inp.prev = s.inp.prev ∧ t.trace = s.trace ∧ t.spi = s.spi ∧ t.lines = s.lines ∧ t.sink = s.sink ∧
      t.host = s.host ∧ t.res.resByte = s.res.resByte ∧ t.res.resEdge = s.res.resEdge ∧ CountersKept s t ∧
      t.env.buttons = s.env.buttons

/-- R164, R162, R163: the SETTLE that SET_SETTLE writes is the one the next poll of a button waits out when it finds an edge;
without an edge it waits out none. (A delay as one event is log 12; the level sampled is the environment's, log 3.) -/
def Obligations.NewSettleAppliesToNextEdge : Prop :=
  ∀ (n : Count) (i : BitVec 2) (s : State), i.toNat < Config.nBtn → s.PortFree →
    ∃ t l, execAll [.setSettle n, .pollEdge i] s = .next t ∧ t.PortFree ∧ t.inp.settle = n ∧
      t.res.resEdge = (l == Config.btnActiveLevel i && !s.inp.getPrev i) ∧
      t.byteTrace = s.byteTrace ++ [.sample i l] ++ (if t.res.resEdge then [.wait .settle n] else [])

/-- R165: over successive polls of one button the results are `e_k = s_k and not s_(k-1)`, the sample before the first
being PREV[i]; for every list of levels the environment answers. -/
def Obligations.EachPressReportedOnce : Prop :=
  ∀ (i : BitVec 2) (levels rest : List Level) (s : State), i.toNat < Config.nBtn → s.PortFree →
    s.env.buttons = levels ++ rest →
    pollResults i levels.length s =
      risingEdges (s.inp.getPrev i) (levels.map fun l => l == Config.btnActiveLevel i)

/-- R166: the verdict on button `i` and the new PREV[i] depend on PREV[i] and on the sampled level only: two states that
agree on those, whatever else differs, give the same. -/
def Obligations.ButtonsAreIndependent : Prop :=
  ∀ (i : BitVec 2) (l : Level) (rest₁ rest₂ : List Level) (s₁ s₂ : State), i.toNat < Config.nBtn →
    s₁.PortFree → s₂.PortFree → s₁.inp.getPrev i = s₂.inp.getPrev i →
    s₁.env.buttons = l :: rest₁ → s₂.env.buttons = l :: rest₂ →
    ∃ t₁ t₂, exec (.pollEdge i) s₁ = .next t₁ ∧ exec (.pollEdge i) s₂ = .next t₂ ∧
      t₁.res.resEdge = t₂.res.resEdge ∧ t₁.res.port = t₂.res.port ∧ t₁.inp.getPrev i = t₂.inp.getPrev i ∧
      ∀ j, j ≠ i → t₁.inp.getPrev j = s₁.inp.getPrev j

/-- R234: a button active at the first POLL_EDGE after block reset is reported as a press edge. (The level as the next of the
environment's choices is log 3; OP_BUSY = 0 says that the operation completes, since a stall is a next state too, log 7.) -/
def Obligations.ButtonHeldAtResetIsAnEdge : Prop :=
  ∀ (i : BitVec 2) (rest : List Level) (s : State), i.toNat < Config.nBtn → s.PortFree → s.inp = State.reset.inp →
    s.env.buttons = Config.btnActiveLevel i :: rest →
    ∃ t, exec (.pollEdge i) s = .next t ∧ t.PortFree ∧ t.res.port = 0x01#8 ∧ t.inp.getPrev i = true ∧
      t.env.buttons = rest

/-! ## Ownership -/

/-- R44, R128, R81: one writer for every register, also when the operation does not complete. SETTLE is written by
SET_SETTLE only; PREV and RES_EDGE by POLL_EDGE; SPI_CFG by SPI_INIT; RES_BYTE by READ; RST by RESET and INIT; CS and DC by
the frame procedure; PAGE_CNT and COL_CNT by CLEAR and RENDER; INIT_IDX by INIT. TXBUF is written and TXE cleared by WRITE
and by the operations that send frames; RXNE is cleared by READ and SPI_INIT. SHIFT, RXBUF, MOSI, BITCNT, HALF and SCK are
the shifter's, and it alone sets RXNE and TXE, but for what SPI_INIT assigns: with no step of the shifter enabled, an
operation that hands it no byte to send leaves them. (A frame hands over bytes and waits for them, so there the shifter
moves; what a WRITE hands over it takes later, log 5.) OPC and OPR take the word when it is accepted, and while OP_BUSY is
1 nothing is accepted and nothing changes. The host's own state no operation changes. -/
def Obligations.EveryRegisterHasOneWriter : Prop :=
  ∀ (i : Instr) (s t : State), exec i s = .next t →
    ((∀ n, i ≠ .setSettle n) → t.inp.settle = s.inp.settle) ∧
    ((∀ b, i ≠ .pollEdge b) → t.inp.prev = s.inp.prev ∧ t.res.resEdge = s.res.resEdge) ∧
    (i ≠ .spiInit → t.spi.cfg = s.spi.cfg) ∧
    (i ≠ .read → t.res.resByte = s.res.resByte) ∧
    (i ≠ .reset → i ≠ .init → t.lines.rst = s.lines.rst) ∧
    (¬ i.SendsFrames → t.lines.cs = s.lines.cs ∧ t.lines.dc = s.lines.dc) ∧
    (i ≠ .clear → (∀ inv, i ≠ .render inv) → t.seq.pageCnt = s.seq.pageCnt ∧ t.seq.colCnt = s.seq.colCnt) ∧
    (i ≠ .init → t.seq.initIdx = s.seq.initIdx) ∧
    (¬ i.SendsFrames → (∀ b, i ≠ .write b) →
      t.spi.txbuf = s.spi.txbuf ∧ (s.spi.txe = true → t.spi.txe = true)) ∧
    (i ≠ .read → i ≠ .spiInit → s.spi.rxne = true → t.spi.rxne = true) ∧
    (s.shifterActive = false → ¬ i.SendsFrames →
      t.spi.shift = s.spi.shift ∧ t.spi.rxbuf = s.spi.rxbuf ∧ t.spi.mosi = s.spi.mosi ∧
      (s.spi.rxne = false → t.spi.rxne = false) ∧
      (i ≠ .spiInit → t.spi.bitcnt = s.spi.bitcnt ∧ t.spi.half = s.spi.half ∧ t.spi.sck = s.spi.sck ∧
        (s.spi.txe = false → t.spi.txe = false))) ∧
    (s.PortFree → t.seq.opc = (encode i).extractLsb' 24 8 ∧ t.seq.opr = (encode i).extractLsb' 0 24) ∧
    (s.seq.opBusy = true → t = s) ∧
    t.host = s.host

/-! ## Invariants -/

/-- R43, R65: the invariants hold after block reset (the Control Loop's start value of DELAY, R182, is in it from the
start: log 6). -/
def Obligations.ResetMeetsInvariants : Prop :=
  MemoryInv State.reset ∧ SinkInv State.reset ∧ TransportInv State.reset ∧ LinesInv State.reset ∧
    DelayInv State.reset

/-- R50, R59: display RAM keeps its canonical form inside the 1024 cells in every step. -/
def Obligations.StepKeepsMemoryCanonical : Prop :=
  ∀ s t : State, MemoryInv s → step s = .next t → MemoryInv t

/-- R65, R66, R72: the sink knows RAM and pointer only while Ready, in every step. -/
def Obligations.StepKeepsSinkKnowledge : Prop :=
  ∀ s t : State, SinkInv s → step s = .next t → SinkInv t

/-- R21, R23, R26, R109: the transport's invariant is kept by every step. -/
def Obligations.StepKeepsTransportInvariant : Prop :=
  ∀ s t : State, TransportInv s → step s = .next t → TransportInv t

/-- R27, R29, R126: between operations chip-select is deasserted and the reset line high; inside one they are what its
steps drove. Kept by every step. -/
def Obligations.StepKeepsLineLatches : Prop :=
  ∀ s t : State, LinesInv s → step s = .next t → LinesInv t

/-! ## The reference host -/

/-- R183 to R187: the actions of the Control Loop, each from its place in the iteration. (One action a step, and the verdict
of a poll read from the port result, are log 6.) -/
def Obligations.ControlLoopActs : Prop :=
  ∀ s : State, s.PortFree → s.host.queue = [] →
    (s.host.loop = .sampleMode → step s = .next { s with host := { s.host with
      queue := [0x30000000#32], loop := .sampleUp } }) ∧
    (s.host.loop = .sampleUp → step s = .next { s with host := { s.host with
      queue := [0x30000001#32], eMode := s.res.port == 0x01#8, loop := .sampleDown } }) ∧
    (s.host.loop = .sampleDown → step s = .next { s with host := { s.host with
      queue := [0x30000002#32], eUp := s.res.port == 0x01#8, loop := .modeEdge } }) ∧
    (s.host.loop = .modeEdge → step s = .next { s with host := { s.host with
      eDown := s.res.port == 0x01#8, blinkEn := s.host.blinkEn ^^ s.host.eMode, loop := .upEdge } }) ∧
    (s.host.loop = .upEdge → s.host.eUp = false → step s = .next { s with host := { s.host with
      loop := .downEdge } }) ∧
    (s.host.loop = .upEdge → s.host.eUp = true → s.host.mode = .normal → step s = .next { s with host := { s.host with
      queue := [0x20000001#32], delay := min (2 * s.host.delay) 16000000, mode := .inverted, loop := .downEdge } }) ∧
    (s.host.loop = .upEdge → s.host.eUp = true → s.host.mode = .inverted → step s = .next { s with host := { s.host with
      queue := [0x20000000#32], delay := min (2 * s.host.delay) 16000000, mode := .normal, loop := .downEdge } }) ∧
    (s.host.loop = .downEdge → step s = .next { s with host := { s.host with
      delay := if s.host.eDown then max (s.host.delay / 2) Config.delayMin else s.host.delay, loop := .blink } }) ∧
    (s.host.loop = .blink → s.host.blinkEn = true → step s = .next { s with host := { s.host with
      ind := true, loop := .sampleMode,
      log := s.host.log ++ [.indicator false, .blinkDelay s.host.delay, .indicator true, .blinkDelay s.host.delay] } }) ∧
    (s.host.loop = .blink → s.host.blinkEn = false → step s = .next { s with host := { s.host with
      ind := true, loop := .sampleMode, log := s.host.log ++ [.indicator true] } })

/-- R181, R185, R186 and the testable property T4: no step takes the blink delay out of [DELAY_MIN, 16000000]. -/
def Obligations.StepKeepsBlinkDelayBounds : Prop :=
  ∀ s t : State, DelayInv s → step s = .next t → DelayInv t

/-- R182, R73: from reset, with nothing presented, the Control Loop's startup (five steps: two of the host, three operations)
sends the reset pulse, INIT_SEQ and the normal checkerboard, and the display shows it. (The Control Loop attached at reset
and its one action a step are log 6; the shifter that never stops is the model's choice at reset, log 4.) -/
def Obligations.ControlLoopStartupPaintsDisplay : Prop :=
  ∃ t, Sys2Proof.core.run 5 State.reset = .next t ∧ t.byteTrace = startupEvents ∧ StartedUp t

/-- R182, R204, R220 to R222: after a block reset, and after a power cycle of the whole system, whatever the block, the
device and the Control Loop were doing, the Control Loop runs its startup: it presents SPI_INIT, INIT and RENDER 0 and
nothing else, and five steps later the display shows the normal checkerboard and the loop begins its first iteration. A
shifter that had stopped is no hindrance. (Block reset as a function beside the step is log 18, the Control Loop's steps are
log 6, the recovered shifter and its fairness are log 4.) -/
def Obligations.BlockResetRestartsReferenceHost : Prop :=
  ∀ s r : State, (r = s.blockReset ∨ r = s.powerCycle) → s.host.loop ≠ .off → s.RunsAfterReset →
    (∃ u, step r = .next u ∧ u.host.queue = [0x01000000#32, 0x13000000#32, 0x20000000#32]) ∧
    ∃ t, Sys2Proof.core.run 5 r = .next t ∧ t.byteTrace = s.byteTrace ++ startupEvents ∧ StartedUp t
end

