-- ==== Sys2Proof/Laws/State.lean ====
section
/-! SUPPORT. The fields of the state after each named update, one lemma per field per update. -/

namespace Sys2Proof.Machine

/-! ### emit -/

@[simp] theorem State.emit_spi (e : Event) (s : State) : (State.emit e s).spi = s.spi := rfl
@[simp] theorem State.emit_lines (e : Event) (s : State) : (State.emit e s).lines = s.lines := rfl
@[simp] theorem State.emit_seq (e : Event) (s : State) : (State.emit e s).seq = s.seq := rfl
@[simp] theorem State.emit_inp (e : Event) (s : State) : (State.emit e s).inp = s.inp := rfl
@[simp] theorem State.emit_res (e : Event) (s : State) : (State.emit e s).res = s.res := rfl
@[simp] theorem State.emit_sink (e : Event) (s : State) : (State.emit e s).sink = s.sink.react s.lines e := rfl
@[simp] theorem State.emit_env (e : Event) (s : State) : (State.emit e s).env = s.env := rfl
@[simp] theorem State.emit_host (e : Event) (s : State) : (State.emit e s).host = s.host := rfl
@[simp] theorem State.emit_trace (e : Event) (s : State) : (State.emit e s).trace = s.trace ++ [e] := rfl

/-! ### driveCs -/

@[simp] theorem State.driveCs_spi (v : Cs) (s : State) : (State.driveCs v s).spi = s.spi := rfl
@[simp] theorem State.driveCs_lines (v : Cs) (s : State) : (State.driveCs v s).lines = { s.lines with cs := v } := rfl
@[simp] theorem State.driveCs_seq (v : Cs) (s : State) : (State.driveCs v s).seq = s.seq := rfl
@[simp] theorem State.driveCs_inp (v : Cs) (s : State) : (State.driveCs v s).inp = s.inp := rfl
@[simp] theorem State.driveCs_res (v : Cs) (s : State) : (State.driveCs v s).res = s.res := rfl
@[simp] theorem State.driveCs_sink (v : Cs) (s : State) : (State.driveCs v s).sink = s.sink := rfl
@[simp] theorem State.driveCs_env (v : Cs) (s : State) : (State.driveCs v s).env = s.env := rfl
@[simp] theorem State.driveCs_host (v : Cs) (s : State) : (State.driveCs v s).host = s.host := rfl
@[simp] theorem State.driveCs_trace (v : Cs) (s : State) : (State.driveCs v s).trace = s.trace ++ [.lineCs v] := rfl

/-! ### driveDc -/

@[simp] theorem State.driveDc_spi (v : Dc) (s : State) : (State.driveDc v s).spi = s.spi := rfl
@[simp] theorem State.driveDc_lines (v : Dc) (s : State) : (State.driveDc v s).lines = { s.lines with dc := v } := rfl
@[simp] theorem State.driveDc_seq (v : Dc) (s : State) : (State.driveDc v s).seq = s.seq := rfl
@[simp] theorem State.driveDc_inp (v : Dc) (s : State) : (State.driveDc v s).inp = s.inp := rfl
@[simp] theorem State.driveDc_res (v : Dc) (s : State) : (State.driveDc v s).res = s.res := rfl
@[simp] theorem State.driveDc_sink (v : Dc) (s : State) : (State.driveDc v s).sink = s.sink := rfl
@[simp] theorem State.driveDc_env (v : Dc) (s : State) : (State.driveDc v s).env = s.env := rfl
@[simp] theorem State.driveDc_host (v : Dc) (s : State) : (State.driveDc v s).host = s.host := rfl
@[simp] theorem State.driveDc_trace (v : Dc) (s : State) : (State.driveDc v s).trace = s.trace ++ [.lineDc v] := rfl

/-! ### driveRst -/

@[simp] theorem State.driveRst_spi (v : Rst) (s : State) : (State.driveRst v s).spi = s.spi := rfl
@[simp] theorem State.driveRst_lines (v : Rst) (s : State) : (State.driveRst v s).lines = { s.lines with rst := v } := rfl
@[simp] theorem State.driveRst_seq (v : Rst) (s : State) : (State.driveRst v s).seq = s.seq := rfl
@[simp] theorem State.driveRst_inp (v : Rst) (s : State) : (State.driveRst v s).inp = s.inp := rfl
@[simp] theorem State.driveRst_res (v : Rst) (s : State) : (State.driveRst v s).res = s.res := rfl
@[simp] theorem State.driveRst_sink (v : Rst) (s : State) : (State.driveRst v s).sink = s.sink.react { s.lines with rst := v } (.lineRst v) := rfl
@[simp] theorem State.driveRst_env (v : Rst) (s : State) : (State.driveRst v s).env = s.env := rfl
@[simp] theorem State.driveRst_host (v : Rst) (s : State) : (State.driveRst v s).host = s.host := rfl
@[simp] theorem State.driveRst_trace (v : Rst) (s : State) : (State.driveRst v s).trace = s.trace ++ [.lineRst v] := rfl

/-! ### delay -/

@[simp] theorem State.delay_spi (k : DelayKind) (n : Count) (s : State) : (State.delay k n s).spi = s.spi := rfl
@[simp] theorem State.delay_lines (k : DelayKind) (n : Count) (s : State) : (State.delay k n s).lines = s.lines := rfl
@[simp] theorem State.delay_seq (k : DelayKind) (n : Count) (s : State) : (State.delay k n s).seq = s.seq := rfl
@[simp] theorem State.delay_inp (k : DelayKind) (n : Count) (s : State) : (State.delay k n s).inp = s.inp := rfl
@[simp] theorem State.delay_res (k : DelayKind) (n : Count) (s : State) : (State.delay k n s).res = s.res := rfl
@[simp] theorem State.delay_sink (k : DelayKind) (n : Count) (s : State) : (State.delay k n s).sink = s.sink.react s.lines (.wait k n) := rfl
@[simp] theorem State.delay_env (k : DelayKind) (n : Count) (s : State) : (State.delay k n s).env = s.env := rfl
@[simp] theorem State.delay_host (k : DelayKind) (n : Count) (s : State) : (State.delay k n s).host = s.host := rfl
@[simp] theorem State.delay_trace (k : DelayKind) (n : Count) (s : State) : (State.delay k n s).trace = s.trace ++ [.wait k n] := rfl

/-! ### drew -/

@[simp] theorem State.drew_spi (s : State) : (State.drew s).spi = s.spi := rfl
@[simp] theorem State.drew_lines (s : State) : (State.drew s).lines = s.lines := rfl
@[simp] theorem State.drew_seq (s : State) : (State.drew s).seq = s.seq := rfl
@[simp] theorem State.drew_inp (s : State) : (State.drew s).inp = s.inp := rfl
@[simp] theorem State.drew_res (s : State) : (State.drew s).res = s.res := rfl
@[simp] theorem State.drew_sink (s : State) : (State.drew s).sink = s.sink := rfl
@[simp] theorem State.drew_env (s : State) : (State.drew s).env = { s.env with draws := s.env.draws + 1 } := rfl
@[simp] theorem State.drew_host (s : State) : (State.drew s).host = s.host := rfl
@[simp] theorem State.drew_trace (s : State) : (State.drew s).trace = s.trace := rfl

/-! ### loadTx -/

@[simp] theorem State.loadTx_spi (b : Byte) (s : State) : (State.loadTx b s).spi = { s.spi with txbuf := b, txe := false } := rfl
@[simp] theorem State.loadTx_lines (b : Byte) (s : State) : (State.loadTx b s).lines = s.lines := rfl
@[simp] theorem State.loadTx_seq (b : Byte) (s : State) : (State.loadTx b s).seq = s.seq := rfl
@[simp] theorem State.loadTx_inp (b : Byte) (s : State) : (State.loadTx b s).inp = s.inp := rfl
@[simp] theorem State.loadTx_res (b : Byte) (s : State) : (State.loadTx b s).res = s.res := rfl
@[simp] theorem State.loadTx_sink (b : Byte) (s : State) : (State.loadTx b s).sink = s.sink.react s.lines (.byte b) := rfl
@[simp] theorem State.loadTx_env (b : Byte) (s : State) : (State.loadTx b s).env = s.env := rfl
@[simp] theorem State.loadTx_host (b : Byte) (s : State) : (State.loadTx b s).host = s.host := rfl
@[simp] theorem State.loadTx_trace (b : Byte) (s : State) : (State.loadTx b s).trace = s.trace ++ [.byte b] := rfl

/-! ### takeRx -/

@[simp] theorem State.takeRx_spi (s : State) : (State.takeRx s).spi = { s.spi with rxne := false } := rfl
@[simp] theorem State.takeRx_lines (s : State) : (State.takeRx s).lines = s.lines := rfl
@[simp] theorem State.takeRx_seq (s : State) : (State.takeRx s).seq = s.seq := rfl
@[simp] theorem State.takeRx_inp (s : State) : (State.takeRx s).inp = s.inp := rfl
@[simp] theorem State.takeRx_res (s : State) : (State.takeRx s).res = { s.res with resByte := s.spi.rxbuf } := rfl
@[simp] theorem State.takeRx_sink (s : State) : (State.takeRx s).sink = s.sink := rfl
@[simp] theorem State.takeRx_env (s : State) : (State.takeRx s).env = s.env := rfl
@[simp] theorem State.takeRx_host (s : State) : (State.takeRx s).host = s.host := rfl
@[simp] theorem State.takeRx_trace (s : State) : (State.takeRx s).trace = s.trace := rfl

/-! ### configureSpi -/

@[simp] theorem State.configureSpi_spi (s : State) : (State.configureSpi s).spi = { s.spi with cfg := SpiCfg.fixed, bitcnt := 0#4, half := false, txe := true, rxne := false, sck := true } := rfl
@[simp] theorem State.configureSpi_lines (s : State) : (State.configureSpi s).lines = s.lines := rfl
@[simp] theorem State.configureSpi_seq (s : State) : (State.configureSpi s).seq = s.seq := rfl
@[simp] theorem State.configureSpi_inp (s : State) : (State.configureSpi s).inp = s.inp := rfl
@[simp] theorem State.configureSpi_res (s : State) : (State.configureSpi s).res = s.res := rfl
@[simp] theorem State.configureSpi_sink (s : State) : (State.configureSpi s).sink = s.sink := rfl
@[simp] theorem State.configureSpi_env (s : State) : (State.configureSpi s).env = s.env := rfl
@[simp] theorem State.configureSpi_host (s : State) : (State.configureSpi s).host = s.host := rfl
@[simp] theorem State.configureSpi_trace (s : State) : (State.configureSpi s).trace = s.trace := rfl

/-! ### setSeq -/

@[simp] theorem State.setSeq_spi (q : Sequencer) (s : State) : (State.setSeq q s).spi = s.spi := rfl
@[simp] theorem State.setSeq_lines (q : Sequencer) (s : State) : (State.setSeq q s).lines = s.lines := rfl
@[simp] theorem State.setSeq_seq (q : Sequencer) (s : State) : (State.setSeq q s).seq = q := rfl
@[simp] theorem State.setSeq_inp (q : Sequencer) (s : State) : (State.setSeq q s).inp = s.inp := rfl
@[simp] theorem State.setSeq_res (q : Sequencer) (s : State) : (State.setSeq q s).res = s.res := rfl
@[simp] theorem State.setSeq_sink (q : Sequencer) (s : State) : (State.setSeq q s).sink = s.sink := rfl
@[simp] theorem State.setSeq_env (q : Sequencer) (s : State) : (State.setSeq q s).env = s.env := rfl
@[simp] theorem State.setSeq_host (q : Sequencer) (s : State) : (State.setSeq q s).host = s.host := rfl
@[simp] theorem State.setSeq_trace (q : Sequencer) (s : State) : (State.setSeq q s).trace = s.trace := rfl

/-! ### tickPos -/

@[simp] theorem State.tickPos_spi (s : State) : (State.tickPos s).spi = s.spi := rfl
@[simp] theorem State.tickPos_lines (s : State) : (State.tickPos s).lines = s.lines := rfl
@[simp] theorem State.tickPos_seq (s : State) : (State.tickPos s).seq = { s.seq with pos := s.seq.pos + 1 } := rfl
@[simp] theorem State.tickPos_inp (s : State) : (State.tickPos s).inp = s.inp := rfl
@[simp] theorem State.tickPos_res (s : State) : (State.tickPos s).res = s.res := rfl
@[simp] theorem State.tickPos_sink (s : State) : (State.tickPos s).sink = s.sink := rfl
@[simp] theorem State.tickPos_env (s : State) : (State.tickPos s).env = s.env := rfl
@[simp] theorem State.tickPos_host (s : State) : (State.tickPos s).host = s.host := rfl
@[simp] theorem State.tickPos_trace (s : State) : (State.tickPos s).trace = s.trace := rfl

/-! ### acceptWord -/

@[simp] theorem State.acceptWord_spi (w : OpWord) (s : State) : (State.acceptWord w s).spi = s.spi := rfl
@[simp] theorem State.acceptWord_lines (w : OpWord) (s : State) : (State.acceptWord w s).lines = s.lines := rfl
@[simp] theorem State.acceptWord_seq (w : OpWord) (s : State) : (State.acceptWord w s).seq = { s.seq with opBusy := true, opc := opcodeOf w, opr := operandOf w, pos := 0 } := rfl
@[simp] theorem State.acceptWord_inp (w : OpWord) (s : State) : (State.acceptWord w s).inp = s.inp := rfl
@[simp] theorem State.acceptWord_res (w : OpWord) (s : State) : (State.acceptWord w s).res = s.res := rfl
@[simp] theorem State.acceptWord_sink (w : OpWord) (s : State) : (State.acceptWord w s).sink = s.sink := rfl
@[simp] theorem State.acceptWord_env (w : OpWord) (s : State) : (State.acceptWord w s).env = s.env := rfl
@[simp] theorem State.acceptWord_host (w : OpWord) (s : State) : (State.acceptWord w s).host = s.host := rfl
@[simp] theorem State.acceptWord_trace (w : OpWord) (s : State) : (State.acceptWord w s).trace = s.trace := rfl

/-! ### complete -/

@[simp] theorem State.complete_spi (s : State) : (State.complete s).spi = s.spi := rfl
@[simp] theorem State.complete_lines (s : State) : (State.complete s).lines = s.lines := rfl
@[simp] theorem State.complete_seq (s : State) : (State.complete s).seq = { s.seq with opBusy := false, pos := 0 } := rfl
@[simp] theorem State.complete_inp (s : State) : (State.complete s).inp = s.inp := rfl
@[simp] theorem State.complete_res (s : State) : (State.complete s).res = { s.res with port := s.resultPort } := rfl
@[simp] theorem State.complete_sink (s : State) : (State.complete s).sink = s.sink := rfl
@[simp] theorem State.complete_env (s : State) : (State.complete s).env = { s.env with draws := s.env.draws + 1 } := rfl
@[simp] theorem State.complete_host (s : State) : (State.complete s).host = s.host := rfl
@[simp] theorem State.complete_trace (s : State) : (State.complete s).trace = s.trace := rfl

/-! ### shifterLoad -/

@[simp] theorem State.shifterLoad_spi (s : State) : (State.shifterLoad s).spi = { s.spi with shift := s.spi.txbuf, txe := true, bitcnt := 8#4, half := false } := rfl
@[simp] theorem State.shifterLoad_lines (s : State) : (State.shifterLoad s).lines = s.lines := rfl
@[simp] theorem State.shifterLoad_seq (s : State) : (State.shifterLoad s).seq = s.seq := rfl
@[simp] theorem State.shifterLoad_inp (s : State) : (State.shifterLoad s).inp = s.inp := rfl
@[simp] theorem State.shifterLoad_res (s : State) : (State.shifterLoad s).res = s.res := rfl
@[simp] theorem State.shifterLoad_sink (s : State) : (State.shifterLoad s).sink = s.sink := rfl
@[simp] theorem State.shifterLoad_env (s : State) : (State.shifterLoad s).env = s.env := rfl
@[simp] theorem State.shifterLoad_host (s : State) : (State.shifterLoad s).host = s.host := rfl
@[simp] theorem State.shifterLoad_trace (s : State) : (State.shifterLoad s).trace = s.trace := rfl

/-! ### shifterLead -/

@[simp] theorem State.shifterLead_spi (s : State) : (State.shifterLead s).spi = { s.spi with sck := false, mosi := s.spi.shift.msb, half := true } := rfl
@[simp] theorem State.shifterLead_lines (s : State) : (State.shifterLead s).lines = s.lines := rfl
@[simp] theorem State.shifterLead_seq (s : State) : (State.shifterLead s).seq = s.seq := rfl
@[simp] theorem State.shifterLead_inp (s : State) : (State.shifterLead s).inp = s.inp := rfl
@[simp] theorem State.shifterLead_res (s : State) : (State.shifterLead s).res = s.res := rfl
@[simp] theorem State.shifterLead_sink (s : State) : (State.shifterLead s).sink = s.sink := rfl
@[simp] theorem State.shifterLead_env (s : State) : (State.shifterLead s).env = s.env := rfl
@[simp] theorem State.shifterLead_host (s : State) : (State.shifterLead s).host = s.host := rfl
@[simp] theorem State.shifterLead_trace (s : State) : (State.shifterLead s).trace = s.trace := rfl

/-! ### blockReset and powerCycle -/

@[simp] theorem State.blockReset_spi (s : State) : s.blockReset.spi = Transport.reset := rfl
@[simp] theorem State.blockReset_lines (s : State) : s.blockReset.lines = { cs := .deasserted, dc := .command, rst := .high } := rfl
@[simp] theorem State.blockReset_seq (s : State) : s.blockReset.seq = Sequencer.reset := rfl
@[simp] theorem State.blockReset_inp (s : State) : s.blockReset.inp = State.reset.inp := rfl
@[simp] theorem State.blockReset_res (s : State) : s.blockReset.res = State.reset.res := rfl
@[simp] theorem State.blockReset_sink (s : State) : s.blockReset.sink = s.sink := rfl
@[simp] theorem State.blockReset_env (s : State) : s.blockReset.env = s.env.recover := rfl
@[simp] theorem State.blockReset_host (s : State) : s.blockReset.host = s.host.restart := rfl
@[simp] theorem State.blockReset_trace (s : State) : s.blockReset.trace = s.trace := rfl

@[simp] theorem State.powerCycle_spi (s : State) : s.powerCycle.spi = Transport.reset := rfl
@[simp] theorem State.powerCycle_lines (s : State) : s.powerCycle.lines = { cs := .deasserted, dc := .command, rst := .high } := rfl
@[simp] theorem State.powerCycle_seq (s : State) : s.powerCycle.seq = Sequencer.reset := rfl
@[simp] theorem State.powerCycle_inp (s : State) : s.powerCycle.inp = State.reset.inp := rfl
@[simp] theorem State.powerCycle_res (s : State) : s.powerCycle.res = State.reset.res := rfl
@[simp] theorem State.powerCycle_sink (s : State) : s.powerCycle.sink = Sink.powerOn := rfl
@[simp] theorem State.powerCycle_env (s : State) : s.powerCycle.env = s.env.recover := rfl
@[simp] theorem State.powerCycle_host (s : State) : s.powerCycle.host = s.host.restart := rfl
@[simp] theorem State.powerCycle_trace (s : State) : s.powerCycle.trace = s.trace := rfl

@[simp] theorem Environment.recover_buttons (e : Environment) : e.recover.buttons = e.buttons := rfl
@[simp] theorem Environment.recover_miso (e : Environment) : e.recover.miso = e.miso := rfl
@[simp] theorem Environment.recover_pace (e : Environment) : e.recover.pace = e.pace := rfl
@[simp] theorem Environment.recover_draws (e : Environment) : e.recover.draws = e.draws := rfl

/-- After a block reset no shifter stands still (R204). -/
theorem Environment.recover_not_stopped (e : Environment) : e.recover.stopped = false := by
  cases h : e.stopped <;> simp_all [Environment.recover, Environment.stopped]

/-- When the shifter never stops after a block reset. -/
theorem State.recover_wedge_none {s : State} (h : s.RunsAfterReset) : s.env.recover.wedge = none := by
  rcases h with h | h
  · simp [Environment.recover, Environment.stopped, h]
  · have : s.env.wedge = some 0 := h
    simp [Environment.recover, Environment.stopped, this]

@[simp] theorem HostAgent.restart_queue (h : HostAgent) : h.restart.queue = [] := rfl
@[simp] theorem HostAgent.restart_log (h : HostAgent) : h.restart.log = h.log := rfl

/-- A restarted Control Loop stands as it does after reset, but for the record of its past events (R182, R204). -/
theorem HostAgent.restart_of_loop (h : HostAgent) (hl : h.loop ≠ .off) :
    h.restart = { HostAgent.reset with log := h.log } := by
  simp [HostAgent.restart, hl, HostAgent.reset]

/-! ### The choices of the environment -/

@[simp] theorem State.afterButton_spi (s : State) : s.afterButton.spi = s.spi := by
  unfold State.afterButton; split <;> rfl
@[simp] theorem State.afterButton_lines (s : State) : s.afterButton.lines = s.lines := by
  unfold State.afterButton; split <;> rfl
@[simp] theorem State.afterButton_seq (s : State) : s.afterButton.seq = s.seq := by
  unfold State.afterButton; split <;> rfl
@[simp] theorem State.afterButton_inp (s : State) : s.afterButton.inp = s.inp := by
  unfold State.afterButton; split <;> rfl
@[simp] theorem State.afterButton_res (s : State) : s.afterButton.res = s.res := by
  unfold State.afterButton; split <;> rfl
@[simp] theorem State.afterButton_sink (s : State) : s.afterButton.sink = s.sink := by
  unfold State.afterButton; split <;> rfl
@[simp] theorem State.afterButton_host (s : State) : s.afterButton.host = s.host := by
  unfold State.afterButton; split <;> rfl
@[simp] theorem State.afterButton_trace (s : State) : s.afterButton.trace = s.trace := by
  unfold State.afterButton; split <;> rfl
@[simp] theorem State.afterButton_wedge (s : State) : s.afterButton.env.wedge = s.env.wedge := by
  unfold State.afterButton; split <;> rfl
@[simp] theorem State.afterButton_miso (s : State) : s.afterButton.env.miso = s.env.miso := by
  unfold State.afterButton; split <;> rfl
@[simp] theorem State.afterButton_pace (s : State) : s.afterButton.env.pace = s.env.pace := by
  unfold State.afterButton; split <;> rfl

@[simp] theorem State.afterMiso_spi (s : State) : s.afterMiso.spi = s.spi := by
  unfold State.afterMiso; split <;> rfl
@[simp] theorem State.afterMiso_lines (s : State) : s.afterMiso.lines = s.lines := by
  unfold State.afterMiso; split <;> rfl
@[simp] theorem State.afterMiso_seq (s : State) : s.afterMiso.seq = s.seq := by
  unfold State.afterMiso; split <;> rfl
@[simp] theorem State.afterMiso_inp (s : State) : s.afterMiso.inp = s.inp := by
  unfold State.afterMiso; split <;> rfl
@[simp] theorem State.afterMiso_res (s : State) : s.afterMiso.res = s.res := by
  unfold State.afterMiso; split <;> rfl
@[simp] theorem State.afterMiso_sink (s : State) : s.afterMiso.sink = s.sink := by
  unfold State.afterMiso; split <;> rfl
@[simp] theorem State.afterMiso_host (s : State) : s.afterMiso.host = s.host := by
  unfold State.afterMiso; split <;> rfl
@[simp] theorem State.afterMiso_trace (s : State) : s.afterMiso.trace = s.trace := by
  unfold State.afterMiso; split <;> rfl
@[simp] theorem State.afterMiso_wedge (s : State) : s.afterMiso.env.wedge = s.env.wedge := by
  unfold State.afterMiso; split <;> rfl
@[simp] theorem State.afterMiso_buttons (s : State) : s.afterMiso.env.buttons = s.env.buttons := by
  unfold State.afterMiso; split <;> rfl
@[simp] theorem State.afterMiso_pace (s : State) : s.afterMiso.env.pace = s.env.pace := by
  unfold State.afterMiso; split <;> rfl

@[simp] theorem State.afterPace_spi (s : State) : s.afterPace.spi = s.spi := by
  unfold State.afterPace; split <;> rfl
@[simp] theorem State.afterPace_lines (s : State) : s.afterPace.lines = s.lines := by
  unfold State.afterPace; split <;> rfl
@[simp] theorem State.afterPace_seq (s : State) : s.afterPace.seq = s.seq := by
  unfold State.afterPace; split <;> rfl
@[simp] theorem State.afterPace_inp (s : State) : s.afterPace.inp = s.inp := by
  unfold State.afterPace; split <;> rfl
@[simp] theorem State.afterPace_res (s : State) : s.afterPace.res = s.res := by
  unfold State.afterPace; split <;> rfl
@[simp] theorem State.afterPace_sink (s : State) : s.afterPace.sink = s.sink := by
  unfold State.afterPace; split <;> rfl
@[simp] theorem State.afterPace_host (s : State) : s.afterPace.host = s.host := by
  unfold State.afterPace; split <;> rfl
@[simp] theorem State.afterPace_trace (s : State) : s.afterPace.trace = s.trace := by
  unfold State.afterPace; split <;> rfl
@[simp] theorem State.afterPace_wedge (s : State) : s.afterPace.env.wedge = s.env.wedge := by
  unfold State.afterPace; split <;> rfl
@[simp] theorem State.afterPace_buttons (s : State) : s.afterPace.env.buttons = s.env.buttons := by
  unfold State.afterPace; split <;> rfl
@[simp] theorem State.afterPace_miso (s : State) : s.afterPace.env.miso = s.env.miso := by
  unfold State.afterPace; split <;> rfl

@[simp] theorem State.spendStep_spi (s : State) : s.spendStep.spi = s.spi := by
  unfold State.spendStep; split <;> rfl
@[simp] theorem State.spendStep_lines (s : State) : s.spendStep.lines = s.lines := by
  unfold State.spendStep; split <;> rfl
@[simp] theorem State.spendStep_seq (s : State) : s.spendStep.seq = s.seq := by
  unfold State.spendStep; split <;> rfl
@[simp] theorem State.spendStep_inp (s : State) : s.spendStep.inp = s.inp := by
  unfold State.spendStep; split <;> rfl
@[simp] theorem State.spendStep_res (s : State) : s.spendStep.res = s.res := by
  unfold State.spendStep; split <;> rfl
@[simp] theorem State.spendStep_sink (s : State) : s.spendStep.sink = s.sink := by
  unfold State.spendStep; split <;> rfl
@[simp] theorem State.spendStep_host (s : State) : s.spendStep.host = s.host := by
  unfold State.spendStep; split <;> rfl
@[simp] theorem State.spendStep_trace (s : State) : s.spendStep.trace = s.trace := by
  unfold State.spendStep; split <;> rfl
@[simp] theorem State.spendStep_buttons (s : State) : s.spendStep.env.buttons = s.env.buttons := by
  unfold State.spendStep; split <;> rfl
@[simp] theorem State.spendStep_miso (s : State) : s.spendStep.env.miso = s.env.miso := by
  unfold State.spendStep; split <;> rfl
@[simp] theorem State.spendStep_pace (s : State) : s.spendStep.env.pace = s.env.pace := by
  unfold State.spendStep; split <;> rfl
@[simp] theorem State.spendStep_draws (s : State) : s.spendStep.env.draws = s.env.draws := by
  unfold State.spendStep; split <;> rfl
theorem State.spendStep_wedge_none (s : State) (h : s.env.wedge = none) : s.spendStep.env.wedge = none := by
  unfold State.spendStep; split <;> simp_all

/-! ### The byte-level trace -/

@[simp] theorem State.byteTrace_emit (e : Event) (s : State) :
    (s.emit e).byteTrace = s.byteTrace ++ if e.byteLevel then [e] else [] := by
  cases h : e.byteLevel <;> simp [State.byteTrace, h]

/-- The byte-level trace depends on the trace alone. -/
theorem State.byteTrace_congr {s t : State} (h : t.trace = s.trace) : t.byteTrace = s.byteTrace := by
  simp [State.byteTrace, h]

end Sys2Proof.Machine
end

