-- ==== Sys2Proof/Laws/Shifter.lean ====
section
/-! SUPPORT. All that a move of the shifter can do (R105 to R108), and what a wait reaches (R102, R104, R120, R203). -/

namespace Sys2Proof.Machine

/-- A received byte is in the buffer or still to come. -/
def State.WillReceive (s : State) : Prop := s.spi.txe = false ∨ s.spi.bitcnt ≠ 0#4 ∨ s.spi.rxne = true

/-- The clock is at its idle level or a byte will bring it there. -/
def State.WillIdleHigh (s : State) : Prop := s.spi.txe = false ∨ s.spi.bitcnt ≠ 0#4 ∨ s.spi.sck = true

/-- `t` is `s` after moves of the shifter alone: nothing but the transport's own registers, the draws and the Rx events
differ (R44). -/
structure ByShifter (s t : State) : Prop where
  lines : t.lines = s.lines
  seq : t.seq = s.seq
  inp : t.inp = s.inp
  res : t.res = s.res
  sink : t.sink = s.sink
  host : t.host = s.host
  cfg : t.spi.cfg = s.spi.cfg
  txbuf : t.spi.txbuf = s.spi.txbuf
  bytes : t.byteTrace = s.byteTrace
  buttons : t.env.buttons = s.env.buttons
  wedge : s.env.wedge = none → t.env.wedge = none
  rxne : s.spi.rxne = true → t.spi.rxne = true
  receives : s.WillReceive → t.WillReceive
  clock : s.WillIdleHigh → t.WillIdleHigh

theorem ByShifter.refl (s : State) : ByShifter s s :=
  ⟨rfl, rfl, rfl, rfl, rfl, rfl, rfl, rfl, rfl, rfl, id, id, id, id⟩

theorem ByShifter.trans {s t u : State} (h : ByShifter s t) (g : ByShifter t u) : ByShifter s u where
  lines := g.lines.trans h.lines
  seq := g.seq.trans h.seq
  inp := g.inp.trans h.inp
  res := g.res.trans h.res
  sink := g.sink.trans h.sink
  host := g.host.trans h.host
  cfg := g.cfg.trans h.cfg
  txbuf := g.txbuf.trans h.txbuf
  bytes := g.bytes.trans h.bytes
  buttons := g.buttons.trans h.buttons
  wedge := g.wedge ∘ h.wedge
  rxne := g.rxne ∘ h.rxne
  receives := g.receives ∘ h.receives
  clock := g.clock ∘ h.clock

theorem ByShifter.serves {s t : State} (h : ByShifter s t) (hs : s.Serves) : t.Serves :=
  ⟨by rw [h.cfg]; exact hs.1, h.wedge hs.2⟩

/-! ## One step -/

theorem spendStep_byShifter (s : State) : ByShifter s s.spendStep where
  lines := by simp
  seq := by simp
  inp := by simp
  res := by simp
  sink := by simp
  host := by simp
  cfg := by simp
  txbuf := by simp
  bytes := State.byteTrace_congr (by simp)
  buttons := by simp
  wedge := s.spendStep_wedge_none
  rxne := by simp
  receives := by simp [State.WillReceive]
  clock := by simp [State.WillIdleHigh]

theorem shifterLoad_byShifter (s : State) : ByShifter s s.shifterLoad := by
  constructor <;> simp [State.WillReceive, State.WillIdleHigh, State.byteTrace]

theorem shifterLead_byShifter (s : State) (h : s.spi.canLead = true) : ByShifter s s.shifterLead := by
  have hb : s.spi.bitcnt ≠ 0#4 := by simp [Transport.canLead] at h; exact h.1
  constructor <;> simp [State.WillReceive, State.WillIdleHigh, State.byteTrace, hb]

theorem shifterTrail_byShifter (s : State) : ByShifter s s.shifterTrail := by
  constructor <;>
    (simp only [State.shifterTrail, State.byteComplete]
     split <;> (try split) <;>
     simp_all [State.WillReceive, State.WillIdleHigh, State.byteTrace, Event.byteLevel, Sink.react])

theorem shifterStep_byShifter (s : State) : ByShifter s s.shifterStep := by
  unfold State.shifterStep
  split
  · exact (shifterLoad_byShifter s).trans (spendStep_byShifter _)
  · split
    · exact (shifterLead_byShifter s (by assumption)).trans (spendStep_byShifter _)
    · exact (shifterTrail_byShifter s).trans (spendStep_byShifter _)

/-! ## Many steps -/

theorem shifterRun_byShifter (n : Nat) (s : State) : ByShifter s (s.shifterRun n) := by
  induction n generalizing s with
  | zero => exact .refl s
  | succ n ih =>
    simp only [State.shifterRun]
    split
    · exact (shifterStep_byShifter s).trans (ih _)
    · exact .refl s

theorem afterPace_byShifter (s : State) : ByShifter s s.afterPace := by
  constructor <;> simp [State.WillReceive, State.WillIdleHigh, State.byteTrace]

theorem shifterTurn_byShifter (s : State) : ByShifter s s.shifterTurn := by
  unfold State.shifterTurn
  split
  · exact (afterPace_byShifter s).trans (shifterRun_byShifter _ _)
  · exact .refl s

theorem shiftUntil_byShifter (c : WaitCond) (n : Nat) (s : State) : ByShifter s (s.shiftUntil c n) := by
  induction n generalizing s with
  | zero => exact .refl s
  | succ n ih =>
    simp only [State.shiftUntil]
    split
    · exact .refl s
    · split
      · exact (shifterStep_byShifter s).trans (ih _)
      · exact .refl s

/-! ## The shifter's work ends -/

/-- The steps the shifter can still take without a new byte. -/
def Transport.work (t : Transport) : Nat :=
  (2 * t.bitcnt.toNat - if t.half && t.bitcnt != 0#4 then 1 else 0) + if t.txe then 0 else 17

theorem Transport.work_lt (t : Transport) : t.work < waitFuel := by
  have := t.bitcnt.isLt
  simp only [Transport.work, waitFuel]
  split <;> split <;> omega

theorem shifterTrail_bitcnt (s : State) : s.shifterTrail.spi.bitcnt = s.spi.bitcnt - 1#4 := by
  simp only [State.shifterTrail, State.byteComplete]
  split <;> (try split) <;> simp

theorem shifterTrail_half (s : State) : s.shifterTrail.spi.half = false := by
  simp only [State.shifterTrail, State.byteComplete]
  split <;> (try split) <;> simp

theorem shifterTrail_txe (s : State) : s.shifterTrail.spi.txe = s.spi.txe := by
  simp only [State.shifterTrail, State.byteComplete]
  split <;> (try split) <;> simp

theorem shifterStep_work (s : State) (h : s.shifterActive = true) :
    s.shifterStep.spi.work < s.spi.work := by
  simp only [State.shifterActive, Bool.and_eq_true, Bool.or_eq_true] at h
  unfold State.shifterStep
  split
  · rename_i hl
    simp only [Transport.canLoad, Bool.and_eq_true, beq_iff_eq, Bool.not_eq_true'] at hl
    simp [Transport.work, hl]
  · split
    · rename_i hl
      simp only [Transport.canLead, Bool.and_eq_true, bne_iff_ne, ne_eq, Bool.not_eq_true'] at hl
      have : s.spi.bitcnt.toNat ≠ 0 := fun h0 => hl.1 (BitVec.eq_of_toNat_eq (by simpa using h0))
      simp [Transport.work, hl]
      omega
    · rename_i h1 h2
      have ht : s.spi.canTrail = true := by simp_all
      simp only [Transport.canTrail, Bool.and_eq_true, bne_iff_ne, ne_eq] at ht
      have h0 : s.spi.bitcnt.toNat ≠ 0 := fun h0 => ht.1 (BitVec.eq_of_toNat_eq (by simpa using h0))
      have hs : (s.spi.bitcnt - 1#4).toNat = s.spi.bitcnt.toNat - 1 := by
        have := s.spi.bitcnt.isLt
        rw [BitVec.toNat_sub]; simp; omega
      simp only [Transport.work, State.spendStep_spi, shifterTrail_bitcnt, shifterTrail_half, shifterTrail_txe, hs]
      simp [ht]
      omega

/-- A wait with enough fuel ends with its condition or with a shifter that has no step left. -/
theorem shiftUntil_ends (c : WaitCond) (n : Nat) (s : State) (h : s.spi.work < n) :
    c.holds (s.shiftUntil c n) = true ∨ (s.shiftUntil c n).shifterActive = false := by
  induction n generalizing s with
  | zero => omega
  | succ n ih =>
    simp only [State.shiftUntil]
    split
    · exact .inl (by assumption)
    · split
      · have := shifterStep_work s (by assumption)
        exact ih _ (by omega)
      · exact .inr (by simp_all)

/-! ## The bytes that arrive -/

/-- From `s` to `t` the shifter moved alone, adding one Rx event for each byte it completed (R108). -/
def RxPerByte (s t : State) : Prop :=
  ∃ rx : List Byte, t.trace = s.trace ++ rx.map .rx ∧ rx.length + t.spi.bytesHeld = s.spi.bytesHeld

theorem RxPerByte.refl (s : State) : RxPerByte s s := ⟨[], by simp⟩

theorem RxPerByte.trans {s t u : State} (h : RxPerByte s t) (g : RxPerByte t u) : RxPerByte s u := by
  obtain ⟨x, hx, hn⟩ := h
  obtain ⟨y, hy, hm⟩ := g
  exact ⟨x ++ y, by simp [hy, hx], by simp; omega⟩

theorem shifterTrail_rx (s : State) (h : s.spi.bitcnt ≠ 0#4) : RxPerByte s s.shifterTrail := by
  simp only [State.shifterTrail, State.byteComplete]
  split
  · refine ⟨[s.spi.shift.extractLsb' 0 7 ++ BitVec.ofBool s.misoLevel], ?_⟩
    split <;> simp_all [Transport.bytesHeld, Nat.add_comm]
  · exact ⟨[], by simp_all [Transport.bytesHeld]⟩

theorem shifterStep_rx (s : State) (h : s.shifterActive = true) : RxPerByte s s.shifterStep := by
  simp only [State.shifterActive, Transport.canLoad, Transport.canLead, Transport.canTrail, Bool.and_eq_true,
    Bool.or_eq_true, bne_iff_ne, beq_iff_eq, Bool.not_eq_true'] at h
  unfold State.shifterStep
  split
  · rename_i hl
    simp only [Transport.canLoad, Bool.and_eq_true, beq_iff_eq, Bool.not_eq_true'] at hl
    exact ⟨[], by simp [Transport.bytesHeld, hl]⟩
  · rename_i hl
    simp only [Transport.canLoad, Bool.and_eq_true, beq_iff_eq, Bool.not_eq_true'] at hl
    have hb : s.spi.bitcnt ≠ 0#4 := by
      rcases h.1 with (h | h) | h
      · exact absurd h hl
      · exact h.1
      · exact h.1
    split
    · exact ⟨[], by simp [Transport.bytesHeld]⟩
    · obtain ⟨rx, h1, h2⟩ := shifterTrail_rx s hb
      exact ⟨rx, by simpa using h1, by simpa using h2⟩

theorem shiftUntil_rx (c : WaitCond) (n : Nat) (s : State) : RxPerByte s (s.shiftUntil c n) := by
  induction n generalizing s with
  | zero => exact .refl s
  | succ n ih =>
    simp only [State.shiftUntil]
    split
    · exact .refl s
    · split
      · exact (shifterStep_rx s (by assumption)).trans (ih _)
      · exact .refl s

/-- A wait for the idle transport on an enabled one lets each byte still in it arrive (R101, R108). -/
theorem waitUntil_rx {c : WaitCond} {s t : State} (h : s.waitUntil c = .moved t) : RxPerByte s t := by
  unfold State.waitUntil at h
  split at h
  · cases h
    exact shiftUntil_rx c waitFuel s
  · cases h

/-- An idle transport leaves the shifter nothing to do. -/
theorem not_active_of_idle {s : State} (h : s.TransportIdle) : s.shifterActive = false := by
  simp only [State.TransportIdle, Transport.busy, Bool.or_eq_false_iff, Bool.not_eq_false', bne_eq_false_iff_eq] at h
  simp [State.shifterActive, Transport.canLoad, Transport.canLead, Transport.canTrail, h]

/-- Whether the shifter has a step depends on the transport and the wedge alone. -/
theorem shifterActive_congr {s t : State} (h : t.spi = s.spi) (hw : t.env.wedge = s.env.wedge) :
    t.shifterActive = s.shifterActive := by
  simp [State.shifterActive, Environment.stopped, h, hw]

theorem shifterTurn_of_not_active {s : State} (h : s.shifterActive = false) : s.shifterTurn = s := by
  simp [State.shifterTurn, h]

theorem shifterTurn_of_idle {s : State} (h : s.TransportIdle) : s.shifterTurn = s :=
  shifterTurn_of_not_active (not_active_of_idle h)

/-- A serving transport whose shifter has no step left is idle. -/
theorem idle_of_not_active {s : State} (hs : s.Serves) (h : s.shifterActive = false) : s.TransportIdle := by
  obtain ⟨h1, h2⟩ := hs
  simp only [State.TransportIdle, Transport.busy]
  simp only [State.shifterActive, Transport.canLoad, Transport.canLead, Transport.canTrail, Environment.stopped,
    h1, h2] at h
  cases hb : s.spi.bitcnt == 0#4 <;> cases ht : s.spi.txe <;> cases hh : s.spi.half <;> simp_all

theorem TransportIdle.txe {s : State} (h : s.TransportIdle) : s.spi.txe = true := by
  simp only [State.TransportIdle, Transport.busy, Bool.or_eq_false_iff, Bool.not_eq_false'] at h
  exact h.1

theorem TransportIdle.bitcnt {s : State} (h : s.TransportIdle) : s.spi.bitcnt = 0#4 := by
  simp only [State.TransportIdle, Transport.busy, Bool.or_eq_false_iff, bne_eq_false_iff_eq] at h
  exact h.2

theorem TransportIdle.received {s : State} (h : s.TransportIdle) (hr : s.WillReceive) : s.spi.rxne = true := by
  rcases hr with hr | hr | hr
  · simp [TransportIdle.txe h] at hr
  · exact absurd (TransportIdle.bitcnt h) hr
  · exact hr

theorem TransportIdle.clockHigh {s : State} (h : s.TransportIdle) (hr : s.WillIdleHigh) : s.spi.sck = true := by
  rcases hr with hr | hr | hr
  · simp [TransportIdle.txe h] at hr
  · exact absurd (TransportIdle.bitcnt h) hr
  · exact hr

/-! ## Waits -/

/-- All that a wait can do. -/
theorem waitUntil_cases (c : WaitCond) (s : State) :
    (∃ t, s.waitUntil c = .moved t ∧ ByShifter s t ∧ c.holds t = true) ∨
    (∃ t, s.waitUntil c = .waits t ∧ ByShifter s t ∧ c.holds t = false ∧ t.shifterActive = false) := by
  have hend := shiftUntil_ends c waitFuel s s.spi.work_lt
  have hby := shiftUntil_byShifter c waitFuel s
  unfold State.waitUntil
  split
  · exact .inl ⟨_, rfl, hby, by assumption⟩
  · exact .inr ⟨_, rfl, hby, by simp_all, by simp_all⟩

/-- A condition that holds already ends its wait with nothing changed. -/
theorem waitUntil_of_holds {c : WaitCond} {s : State} (h : c.holds s = true) : s.waitUntil c = .moved s := by
  simp [State.waitUntil, waitFuel, State.shiftUntil, h]

/-- Where the shifter has no step left and the condition fails, the wait changes nothing. -/
theorem waitUntil_of_stuck {c : WaitCond} {s : State} (h : c.holds s = false) (ha : s.shifterActive = false) :
    s.waitUntil c = .waits s := by
  simp [State.waitUntil, waitFuel, State.shiftUntil, h, ha]

/-- A serving transport always becomes idle. -/
theorem waitUntil_idle {s : State} (hs : s.Serves) :
    ∃ t, s.waitUntil .idle = .moved t ∧ ByShifter s t ∧ t.TransportIdle := by
  rcases waitUntil_cases .idle s with ⟨t, h, hb, hc⟩ | ⟨t, -, hb, hc, ha⟩
  · exact ⟨t, h, hb, by simpa [WaitCond.holds, State.TransportIdle] using hc⟩
  · have := idle_of_not_active (hb.serves hs) ha
    simp [WaitCond.holds, State.TransportIdle] at hc this
    simp [this] at hc

/-- A serving transport always frees its transmit buffer. -/
theorem waitUntil_txe {s : State} (hs : s.Serves) :
    ∃ t, s.waitUntil .txe = .moved t ∧ ByShifter s t ∧ t.spi.txe = true := by
  rcases waitUntil_cases .txe s with ⟨t, h, hb, hc⟩ | ⟨t, -, hb, hc, ha⟩
  · exact ⟨t, h, hb, hc⟩
  · have := TransportIdle.txe (idle_of_not_active (hb.serves hs) ha)
    simp [WaitCond.holds, this] at hc

end Sys2Proof.Machine
end

