-- ==== Sys2Proof/Laws/Sequencer.lean ====
section
/-! SUPPORT. All that a run of the sequencer can do: composition of step lists, one frame, the reset pulse, acceptance
and completion (R12, R81, R120, R123). -/

namespace Sys2Proof.Machine

/-! ## Composition -/

/-- Go on from a sequencer that moved. -/
def Progress.andThen (p : Progress) (f : State → Progress) : Progress :=
  match p with
  | .moved s => f s
  | .waits s => .waits s

@[simp] theorem Progress.andThen_moved (s : State) (f : State → Progress) : (Progress.moved s).andThen f = f s := rfl

@[simp] theorem Progress.andThen_waits (s : State) (f : State → Progress) :
    (Progress.waits s).andThen f = .waits s := rfl

@[simp] theorem Progress.finish_moved (s : State) : (Progress.moved s).finish = s.complete := rfl

@[simp] theorem Progress.finish_waits (s : State) : (Progress.waits s).finish = s := rfl

@[simp] theorem advance_nil (s : State) : advance [] s = .moved s := rfl

theorem advance_cons (a : SeqStep) (l : List SeqStep) (s : State) :
    advance (a :: l) s = (a.run s).andThen fun t => advance l t.tickPos := by
  simp only [advance]; cases a.run s <;> rfl

theorem advance_append (l₁ l₂ : List SeqStep) (s : State) :
    advance (l₁ ++ l₂) s = (advance l₁ s).andThen (advance l₂) := by
  induction l₁ generalizing s with
  | nil => rfl
  | cons a l ih =>
    rw [List.cons_append, advance_cons, advance_cons]
    cases a.run s with
    | moved t => exact ih _
    | waits t => rfl

/-- The byte of a source does not depend on the sequencer position. -/
@[simp] theorem ByteSrc.value_pos (src : ByteSrc) (q : Sequencer) (n : Nat) :
    src.value { q with pos := n } = src.value q := by
  cases src <;> rfl

@[simp] theorem State.byteTrace_tickPos (s : State) : s.tickPos.byteTrace = s.byteTrace := rfl

@[simp] theorem State.byteTrace_setSeq (q : Sequencer) (s : State) : (s.setSeq q).byteTrace = s.byteTrace := rfl

@[simp] theorem State.byteTrace_acceptWord (w : OpWord) (s : State) :
    (s.acceptWord w).byteTrace = s.byteTrace := rfl

@[simp] theorem State.byteTrace_complete (s : State) : s.complete.byteTrace = s.byteTrace := rfl

@[simp] theorem State.byteTrace_driveCs (v : Cs) (s : State) :
    (s.driveCs v).byteTrace = s.byteTrace ++ [.lineCs v] := by simp [State.driveCs, Event.byteLevel]; rfl

@[simp] theorem State.byteTrace_driveDc (v : Dc) (s : State) :
    (s.driveDc v).byteTrace = s.byteTrace ++ [.lineDc v] := by simp [State.driveDc, Event.byteLevel]; rfl

@[simp] theorem State.byteTrace_driveRst (v : Rst) (s : State) :
    (s.driveRst v).byteTrace = s.byteTrace ++ [.lineRst v] := by simp [State.driveRst, Event.byteLevel]; rfl

@[simp] theorem State.byteTrace_loadTx (b : Byte) (s : State) :
    (s.loadTx b).byteTrace = s.byteTrace ++ [.byte b] := by simp [State.loadTx, Event.byteLevel]; rfl

@[simp] theorem State.byteTrace_delay (k : DelayKind) (n : Count) (s : State) :
    (s.delay k n).byteTrace = s.byteTrace ++ [.wait k n] := by simp [State.delay, Event.byteLevel]

/-! ## One frame -/

/-- All that a frame of kind `k` and byte `b`, taking `n` steps, has done when it is over (R120). -/
structure Framed (k : Dc) (b : Byte) (s t : State) : Prop where
  seq : t.seq = { s.seq with pos := s.seq.pos + 7 }
  bytes : t.byteTrace = s.byteTrace ++ frameEvents k b
  sink : t.sink = s.sink.accept k b
  lines : t.lines = { cs := .deasserted, dc := k, rst := s.lines.rst }
  sent : SentAll t
  kept : Kept s t

theorem ByShifter.kept {s t : State} (h : ByShifter s t) : Kept s t where
  cfg := h.cfg
  inp := h.inp
  resByte := by rw [h.res]
  resEdge := by rw [h.res]
  host := h.host
  buttons := h.buttons
  wedge := h.wedge

theorem Kept.refl (s : State) : Kept s s := ⟨rfl, rfl, rfl, rfl, rfl, rfl, id⟩

theorem Kept.trans {s t u : State} (h : Kept s t) (g : Kept t u) : Kept s u where
  cfg := g.cfg.trans h.cfg
  inp := g.inp.trans h.inp
  resByte := g.resByte.trans h.resByte
  resEdge := g.resEdge.trans h.resEdge
  host := g.host.trans h.host
  buttons := g.buttons.trans h.buttons
  wedge := g.wedge ∘ h.wedge

theorem Kept.serves {s t : State} (h : Kept s t) (hs : s.Serves) : t.Serves :=
  ⟨by rw [h.cfg]; exact hs.1, h.wedge hs.2⟩

/-- The state between F1 and F5: the window opened on an idle transport and the byte handed over. -/
def State.openWindow (k : Dc) (src : ByteSrc) (s : State) : State :=
  let s := (s.tickPos.driveCs .asserted).tickPos
  let s := (s.driveDc k).tickPos.tickPos
  (s.loadTx (src.value s.seq)).tickPos

/-- On an idle transport F1 to F4 pass without the shifter moving. -/
theorem advance_openWindow {k : Dc} {src : ByteSrc} {s : State} (hi : s.TransportIdle) (rest : List SeqStep) :
    advance ([.wait .idle, .driveCs .asserted, .driveDc k, .wait .txe, .load src] ++ rest) s =
      advance rest (s.openWindow k src) := by
  have h1 : ∀ t : State, t.spi = s.spi → t.TransportIdle := fun t ht => by
    simpa [State.TransportIdle, ht] using hi
  have hh : WaitCond.holds .idle s = true := by simpa [WaitCond.holds, State.TransportIdle] using hi
  simp only [List.cons_append, List.nil_append, advance_cons, SeqStep.run, waitUntil_of_holds hh,
    Progress.andThen_moved]
  rw [shifterTurn_of_idle (s := s.tickPos) (h1 _ rfl)]
  rw [shifterTurn_of_idle (s := (s.tickPos.driveCs .asserted).tickPos) (h1 _ rfl)]
  rw [waitUntil_of_holds (c := .txe) (by exact (TransportIdle.txe (h1 _ rfl)))]
  rw [Progress.andThen_moved,
    shifterTurn_of_idle (s := ((s.tickPos.driveCs .asserted).tickPos.driveDc k).tickPos.tickPos) (h1 _ rfl)]
  rfl

/-- With a serving transport a frame always ends, and this is all it does (R120). -/
theorem advance_frame (k : Dc) (src : ByteSrc) {s : State} (hs : s.Serves) :
    ∃ t, advance (frame k src) s = .moved t ∧ Framed k (src.value s.seq) s t := by
  obtain ⟨u, hu, hby, hidle⟩ := waitUntil_idle hs
  have hstart : advance (frame k src) s =
      advance ([.wait .idle, .driveCs .asserted, .driveDc k, .wait .txe, .load src] ++
        [.wait .idle, .driveCs .deasserted]) u := by
    have hh : WaitCond.holds .idle u = true := by simpa [WaitCond.holds, State.TransportIdle] using hidle
    simp only [frame, List.cons_append, List.nil_append, advance_cons, SeqStep.run, hu, waitUntil_of_holds hh,
      Progress.andThen_moved]
  have hw : (u.openWindow k src).Serves := by
    have := hby.serves hs
    exact ⟨by simpa [State.openWindow] using this.1, by simpa [State.openWindow] using this.2⟩
  obtain ⟨v, hv, hbv, hvi⟩ := waitUntil_idle hw
  have hvt : v.tickPos.TransportIdle := hvi
  have hrec := TransportIdle.received hvi (hbv.receives (.inl (by simp [State.openWindow])))
  have hclk := TransportIdle.clockHigh hvi (hbv.clock (.inl (by simp [State.openWindow])))
  refine ⟨(v.tickPos.driveCs .deasserted).tickPos, ?_, ?_⟩
  · rw [hstart, advance_openWindow hidle]
    simp only [advance_cons, SeqStep.run, hv, Progress.andThen_moved, advance_nil, shifterTurn_of_idle hvt]
  · have hseq : (u.openWindow k src).seq = { s.seq with pos := s.seq.pos + 5 } := by
      simp [State.openWindow, hby.seq]
    have hval : src.value { s.seq with pos := s.seq.pos + 4 } = src.value s.seq := by simp
    constructor
    · simp [hbv.seq, hseq]
    · simp [hbv.bytes, State.openWindow, hby.bytes, frameEvents, hby.seq]
    · simp [hbv.sink, State.openWindow, hby.sink, Sink.react, hby.seq]
    · simp [hbv.lines, State.openWindow, hby.lines]
    · exact ⟨hvt, by simpa using hclk, by simpa using hrec⟩
    · constructor
      · simp [hbv.cfg, State.openWindow, hby.cfg]
      · simp [hbv.inp, State.openWindow, hby.inp]
      · simp [hbv.res, State.openWindow, hby.res]
      · simp [hbv.res, State.openWindow, hby.res]
      · simp [hbv.host, State.openWindow, hby.host]
      · simp [hbv.buttons, State.openWindow, hby.buttons]
      · intro h
        simpa using hbv.wedge (by simpa [State.openWindow] using hby.wedge h)

/-! ## Acceptance and completion -/

theorem operation_of_busy {w : OpWord} {steps : List SeqStep} {s : State} (h : s.seq.opBusy = true) :
    operation w steps s = s := by
  simp [operation, h]

theorem operation_of_free {w : OpWord} {steps : List SeqStep} {s : State} (h : s.PortFree) :
    operation w steps s = (advance steps (s.acceptWord w)).finish := by
  simp only [State.PortFree] at h
  simp [operation, h]

/-- What completion leaves alone. -/
theorem complete_kept (s : State) : Kept s s.complete :=
  ⟨rfl, rfl, rfl, rfl, rfl, rfl, id⟩

theorem accept_kept (w : OpWord) (s : State) : Kept s (s.acceptWord w) :=
  ⟨rfl, rfl, rfl, rfl, rfl, rfl, id⟩

end Sys2Proof.Machine
end

