-- ==== Sys2Proof/Laws/Frames.lean ====
section
/-! SUPPORT. Runs of frames: what a list of frames does, and the loops of INIT, CLEAR and RENDER (R124, R125, R140,
R152). -/

namespace Sys2Proof.Machine

/-- The lines after a list of frames: chip-select deasserted, DC the kind of the last frame (R126). -/
def linesAfter (fs : List Frame) (l : Lines) : Lines :=
  fs.foldl (fun l f => { cs := .deasserted, dc := f.1, rst := l.rst }) l

/-- From `s` exactly the frames `fs` were sent; the running operation and its operand are as they were. -/
structure Sends (fs : List Frame) (s t : State) : Prop where
  bytes : t.byteTrace = s.byteTrace ++ framesEvents fs
  sink : t.sink = s.sink.acceptAll fs
  lines : t.lines = linesAfter fs s.lines
  sent : SentAll s ∨ fs ≠ [] → SentAll t
  kept : Kept s t
  busy : t.seq.opBusy = s.seq.opBusy
  opc : t.seq.opc = s.seq.opc
  opr : t.seq.opr = s.seq.opr

theorem Sends.trans {fs gs : List Frame} {s t u : State} (h : Sends fs s t) (g : Sends gs t u) :
    Sends (fs ++ gs) s u where
  bytes := by rw [g.bytes, h.bytes]; simp [framesEvents]
  sink := by rw [g.sink, h.sink]; simp [Sink.acceptAll]
  lines := by rw [g.lines, h.lines]; simp [linesAfter]
  sent := by
    intro hne
    by_cases hg : gs = []
    · exact g.sent (.inl (h.sent (by simpa [hg] using hne)))
    · exact g.sent (.inr hg)
  kept := h.kept.trans g.kept
  busy := g.busy.trans h.busy
  opc := g.opc.trans h.opc
  opr := g.opr.trans h.opr

theorem Framed.sends {k : Dc} {b : Byte} {s t : State} (h : Framed k b s t) : Sends [(k, b)] s t where
  bytes := by rw [h.bytes]; simp [framesEvents]
  sink := by rw [h.sink]; simp [Sink.acceptAll]
  lines := by rw [h.lines]; simp [linesAfter]
  sent := fun _ => h.sent
  kept := h.kept
  busy := by rw [h.seq]
  opc := by rw [h.seq]
  opr := by rw [h.seq]

/-- A step that only rewrites the counters or the position sends nothing. -/
theorem sends_setSeq {q : Sequencer} {s : State} (hb : q.opBusy = s.seq.opBusy) (hc : q.opc = s.seq.opc)
    (hr : q.opr = s.seq.opr) : Sends [] s (s.setSeq q) where
  bytes := by simp [framesEvents]
  sink := rfl
  lines := rfl
  sent := by
    rintro (h | h)
    · exact ⟨h.idle, h.sck, h.rxne⟩
    · exact absurd rfl h
  kept := ⟨rfl, rfl, rfl, rfl, rfl, rfl, id⟩
  busy := hb
  opc := hc
  opr := hr

theorem Sends.refl (s : State) : Sends [] s s := sends_setSeq (q := s.seq) (s := s) rfl rfl rfl

/-- One frame as a list of frames; the counters are as they were. -/
theorem advance_frame_sends (k : Dc) (src : ByteSrc) {s : State} (hs : s.Serves) :
    ∃ t, advance (frame k src) s = .moved t ∧ Sends [(k, src.value s.seq)] s t ∧ CountersKept s t := by
  obtain ⟨t, ht, hf⟩ := advance_frame k src hs
  exact ⟨t, ht, hf.sends, by rw [hf.seq], by rw [hf.seq], by rw [hf.seq]⟩

theorem Sends.serves {fs : List Frame} {s t : State} (h : Sends fs s t) (hs : s.Serves) : t.Serves :=
  h.kept.serves hs

theorem CountersKept.trans {s t u : State} (h : CountersKept s t) (g : CountersKept t u) : CountersKept s u :=
  ⟨g.pageCnt.trans h.pageCnt, g.colCnt.trans h.colCnt, g.initIdx.trans h.initIdx⟩

/-- Three frames in a row. -/
theorem advance_three_frames (a b c : ByteSrc) {s : State} (hs : s.Serves)
    (hb : ∀ q : Sequencer, q.opr = s.seq.opr → q.pageCnt = s.seq.pageCnt → a.value q = a.value s.seq ∧
      b.value q = b.value s.seq ∧ c.value q = c.value s.seq) :
    ∃ t, advance (frame .command a ++ frame .command b ++ frame .command c) s = .moved t ∧
      Sends [(.command, a.value s.seq), (.command, b.value s.seq), (.command, c.value s.seq)] s t ∧
      CountersKept s t := by
  obtain ⟨t, ht, hst, hct⟩ := advance_frame_sends .command a hs
  obtain ⟨u, hu, hsu, hcu⟩ := advance_frame_sends .command b (hst.serves hs)
  obtain ⟨v, hv, hsv, hcv⟩ := advance_frame_sends .command c (hsu.serves (hst.serves hs))
  refine ⟨v, ?_, ?_, (hct.trans hcu).trans hcv⟩
  · rw [advance_append, advance_append, ht]
    simp [hu, hv]
  · have h1 := (hb t.seq hst.opr hct.pageCnt).2.1
    have h2 := (hb u.seq (hsu.opr.trans hst.opr) (hcu.pageCnt.trans hct.pageCnt)).2.2
    rw [h1] at hsu
    rw [h2] at hsv
    exact (hst.trans hsu).trans hsv

/-! ## The column loop -/

/-- The data byte of a full-screen operation is `f` of the two counters. -/
def ByteSrc.IsScreen (src : ByteSrc) (f : Nat → Nat → Byte) (opr : BitVec 24) : Prop :=
  ∀ q : Sequencer, q.opr = opr → src.value q = f q.pageCnt.toNat q.colCnt.toNat

theorem advance_columns {src : ByteSrc} {f : Nat → Nat → Byte} (n : Nat) (c : Nat) {s : State} (hs : s.Serves)
    (hf : src.IsScreen f s.seq.opr) (hc : s.seq.colCnt = BitVec.ofNat 8 c) (hn : c + n ≤ 128) :
    ∃ t, advance (repeatSteps n (columnSteps src)) s = .moved t ∧
      Sends ((List.range' c n).map fun c => (Dc.data, f s.seq.pageCnt.toNat c)) s t ∧
      t.seq.pageCnt = s.seq.pageCnt ∧ t.seq.colCnt = BitVec.ofNat 8 (c + n) ∧ t.seq.initIdx = s.seq.initIdx := by
  induction n generalizing c s with
  | zero =>
    refine ⟨s, rfl, ?_, rfl, by simpa using hc, rfl⟩
    simpa using Sends.refl s
  | succ n ih =>
    obtain ⟨t, ht, hst, hct⟩ := advance_frame_sends .data src hs
    have hval : src.value s.seq = f s.seq.pageCnt.toNat c := by
      rw [hf _ rfl, hc]; congr 1; simp; omega
    rw [hval] at hst
    let u := (t.setSeq { t.seq with colCnt := t.seq.colCnt + 1#8 }).tickPos
    have hu : Sends [] t u := sends_setSeq rfl rfl rfl
    have huc : u.seq.colCnt = BitVec.ofNat 8 (c + 1) := by
      show t.seq.colCnt + 1#8 = _
      rw [hct.colCnt, hc]; simp [BitVec.ofNat_add]
    have hup : u.seq.pageCnt = s.seq.pageCnt := hct.pageCnt
    have hur : u.seq.opr = s.seq.opr := hst.opr
    obtain ⟨v, hv, hsv, hp, hcv, hiv⟩ := ih (c + 1) (hu.serves (hst.serves hs)) (by rw [hur]; exact hf) huc (by omega)
    refine ⟨v, ?_, ?_, hp.trans hup, by rw [hcv]; congr 1; omega, hiv.trans hct.initIdx⟩
    · simp only [repeatSteps, columnSteps, List.append_assoc]
      rw [advance_append, ht, Progress.andThen_moved, List.singleton_append, advance_cons]
      exact hv
    · rw [hup] at hsv
      simpa [List.range'_succ] using (hst.trans hu).trans hsv

/-! ## The page loop -/

theorem advance_page {src : ByteSrc} {f : Nat → Nat → Byte} (p : Nat) {s : State} (hs : s.Serves)
    (hf : src.IsScreen f s.seq.opr) (hp : s.seq.pageCnt = BitVec.ofNat 4 p) (hlt : p < 8) :
    ∃ t, advance (pageSteps src) s = .moved t ∧ Sends (pageFrames f p) s t ∧
      t.seq.pageCnt = BitVec.ofNat 4 (p + 1) ∧ t.seq.colCnt = 128#8 ∧ t.seq.initIdx = s.seq.initIdx := by
  have hpn : s.seq.pageCnt.toNat = p := by rw [hp]; simp; omega
  obtain ⟨t, ht, hst, hct⟩ := advance_three_frames .pageOfCounter (.lit Config.cmdColLo) (.lit Config.cmdColHi) hs
    (by intro q _ hq; simp [ByteSrc.value, hq])
  let u := (t.setSeq { t.seq with colCnt := 0#8 }).tickPos
  have hu : Sends [] t u := sends_setSeq rfl rfl rfl
  have hup : u.seq.pageCnt = s.seq.pageCnt := hct.pageCnt
  have hur : u.seq.opr = s.seq.opr := hst.opr
  obtain ⟨v, hv, hsv, hvp, hvc, hvi⟩ := advance_columns 128 0 (hu.serves (hst.serves hs)) (by rw [hur]; exact hf)
    (show u.seq.colCnt = _ from rfl) (by omega)
  let w := (v.setSeq { v.seq with pageCnt := v.seq.pageCnt + 1#4 }).tickPos
  have hw : Sends [] v w := sends_setSeq rfl rfl rfl
  refine ⟨w, ?_, ?_, ?_, hvc, (hvi.trans hct.initIdx)⟩
  · simp only [pageSteps, selectCountedPage]
    rw [advance_append, advance_append, advance_append, ht]
    simp only [Progress.andThen_moved, advance_cons, advance_nil, SeqStep.run]
    rw [show (t.setSeq { t.seq with colCnt := 0#8 }).tickPos = u from rfl, hv]
    rfl
  · have h0 : ByteSrc.value .pageOfCounter s.seq = 0xB0#8 + BitVec.ofNat 8 p := by
      simp only [ByteSrc.value, pageCommand, Config.cmdPageBase, hp]
      congr 1
      apply BitVec.eq_of_toNat_eq
      simp; omega
    rw [h0, show ByteSrc.value (.lit Config.cmdColLo) s.seq = 0x00#8 from rfl,
      show ByteSrc.value (.lit Config.cmdColHi) s.seq = 0x10#8 from rfl] at hst
    rw [hup, hpn, ← List.range_eq_range'] at hsv
    simpa [pageFrames] using ((hst.trans hu).trans hsv).trans hw
  · show v.seq.pageCnt + 1#4 = _
    rw [hvp, hup, hp]; simp [BitVec.ofNat_add]

theorem advance_pages {src : ByteSrc} {f : Nat → Nat → Byte} (n : Nat) (p : Nat) {s : State} (hs : s.Serves)
    (hf : src.IsScreen f s.seq.opr) (hp : s.seq.pageCnt = BitVec.ofNat 4 p) (hn : p + n ≤ 8) :
    ∃ t, advance (repeatSteps n (pageSteps src)) s = .moved t ∧
      Sends ((List.range' p n).flatMap (pageFrames f)) s t ∧ t.seq.pageCnt = BitVec.ofNat 4 (p + n) ∧
      (0 < n → t.seq.colCnt = 128#8) ∧ t.seq.initIdx = s.seq.initIdx := by
  induction n generalizing p s with
  | zero =>
    refine ⟨s, rfl, ?_, by simpa using hp, by simp, rfl⟩
    simpa using Sends.refl s
  | succ n ih =>
    obtain ⟨t, ht, hst, htp, htc, hti⟩ := advance_page p hs hf hp (by omega)
    obtain ⟨u, hu, hsu, hup, huc, hui⟩ := ih (p + 1) (hst.serves hs) (by rw [hst.opr]; exact hf) htp (by omega)
    refine ⟨u, ?_, ?_, by rw [hup]; congr 1; omega, ?_, hui.trans hti⟩
    · simp only [repeatSteps]
      rw [advance_append, ht]; exact hu
    · simpa [List.range'_succ] using hst.trans hsu
    · intro _
      cases n with
      | zero =>
        simp only [repeatSteps, advance_nil, Progress.moved.injEq] at hu
        rw [← hu]; exact htc
      | succ n => exact huc (by omega)

/-- With a serving transport a full-screen operation sends its 1048 frames (R125, R152). -/
theorem advance_screen {src : ByteSrc} {f : Nat → Nat → Byte} {s : State} (hs : s.Serves)
    (hf : src.IsScreen f s.seq.opr) :
    ∃ t, advance (screenSteps src) s = .moved t ∧ Sends (screenFrames f) s t ∧ t.seq.pageCnt = 8#4 ∧
      t.seq.colCnt = 128#8 ∧ t.seq.initIdx = s.seq.initIdx := by
  let u := (s.setSeq { s.seq with pageCnt := 0#4 }).tickPos
  have hu : Sends [] s u := sends_setSeq rfl rfl rfl
  obtain ⟨t, ht, hst, hp, hc, hi⟩ := advance_pages 8 0 (hu.serves hs) (by rw [hu.opr]; exact hf)
    (show u.seq.pageCnt = _ from rfl) (by omega)
  refine ⟨t, ?_, ?_, hp, hc (by omega), hi⟩
  · simp only [screenSteps, List.singleton_append, advance_cons, SeqStep.run]
    exact ht
  · have := hu.trans hst
    rw [← List.range_eq_range'] at this
    simpa [screenFrames] using this

/-! ## The loop of INIT -/

theorem advance_inits (n : Nat) (k : Nat) {s : State} (hs : s.Serves) (hk : s.seq.initIdx = BitVec.ofNat 5 k)
    (hn : k + n ≤ 26) :
    ∃ t, advance (repeatSteps n (frame .command .initEntry ++ [.incIdx])) s = .moved t ∧
      Sends ((List.range' k n).map fun k => (Dc.command, Config.initSeqAt k)) s t ∧
      t.seq.initIdx = BitVec.ofNat 5 (k + n) ∧ t.seq.pageCnt = s.seq.pageCnt ∧ t.seq.colCnt = s.seq.colCnt := by
  induction n generalizing k s with
  | zero =>
    refine ⟨s, rfl, ?_, by simpa using hk, rfl, rfl⟩
    simpa using Sends.refl s
  | succ n ih =>
    obtain ⟨t, ht, hst, hct⟩ := advance_frame_sends .command .initEntry hs
    have hval : ByteSrc.value .initEntry s.seq = Config.initSeqAt k := by
      simp only [ByteSrc.value, hk]; congr 1; simp; omega
    rw [hval] at hst
    let u := (t.setSeq { t.seq with initIdx := t.seq.initIdx + 1#5 }).tickPos
    have hu : Sends [] t u := sends_setSeq rfl rfl rfl
    have huk : u.seq.initIdx = BitVec.ofNat 5 (k + 1) := by
      show t.seq.initIdx + 1#5 = _
      rw [hct.initIdx, hk]; simp [BitVec.ofNat_add]
    obtain ⟨v, hv, hsv, hi, hp, hc⟩ := ih (k + 1) (hu.serves (hst.serves hs)) huk (by omega)
    refine ⟨v, ?_, ?_, by rw [hi]; congr 1; omega, hp.trans hct.pageCnt, hc.trans hct.colCnt⟩
    · simp only [repeatSteps, List.append_assoc]
      rw [advance_append, ht, Progress.andThen_moved, List.singleton_append, advance_cons]
      exact hv
    · simpa [List.range'_succ] using (hst.trans hu).trans hsv

end Sys2Proof.Machine
end

