-- ==== Sys2Proof/Laws/Encoding.lean ====
section
/-! SUPPORT. The fields of an operation word: opcode and operand of a concatenation, and the operand slices OPR gives back
(R81, R82). -/

namespace Sys2Proof

/-- A slice that lies in the low part of a concatenation. -/
theorem extract_within {a b s n : Nat} (x : BitVec a) (y : BitVec b) (h : s + n ≤ b) :
    (x ++ y).extractLsb' s n = y.extractLsb' s n := by
  apply BitVec.eq_of_getLsbD_eq
  intro i hi
  have hib : s + i < b := by omega
  simp [BitVec.getLsbD_append, hi, hib]

/-- The high part of a concatenation. -/
theorem extract_high {a b : Nat} (x : BitVec a) (y : BitVec b) : (x ++ y).extractLsb' b a = x := by
  apply BitVec.eq_of_getLsbD_eq
  intro i hi
  simp [BitVec.getLsbD_append, hi]

/-- The whole of a word. -/
theorem extract_all {a : Nat} (x : BitVec a) : x.extractLsb' 0 a = x := by
  apply BitVec.eq_of_getLsbD_eq
  intro i hi
  simp [hi]

/-- The low part of a concatenation. -/
theorem extract_low {a b : Nat} (x : BitVec a) (y : BitVec b) : (x ++ y).extractLsb' 0 b = y :=
  (extract_within x y (by omega)).trans (extract_all y)

@[simp] theorem opcodeOf_opWord (opc : BitVec 8) (x : BitVec 24) : opcodeOf (opWord opc x) = opc := extract_high opc x

@[simp] theorem operandOf_opWord (opc : BitVec 8) (x : BitVec 24) : operandOf (opWord opc x) = x := extract_low opc x

@[simp] theorem byteOperand_byte (b : Byte) : (byteOperand b).extractLsb' 0 8 = b := extract_low (0#16) b

@[simp] theorem byteOperand_unused (b : Byte) : (byteOperand b).extractLsb' 8 16 = 0#16 := extract_high (0#16) b

@[simp] theorem cellOperand_column (page : BitVec 3) (column : BitVec 7) :
    (cellOperand page column).extractLsb' 0 7 = column :=
  (extract_within (0#13) (page ++ (0#1 ++ column)) (by omega)).trans
    ((extract_within page (0#1 ++ column) (by omega)).trans (extract_low (0#1) column))

@[simp] theorem cellOperand_page (page : BitVec 3) (column : BitVec 7) :
    (cellOperand page column).extractLsb' 8 3 = page :=
  (extract_within (0#13) (page ++ (0#1 ++ column)) (by omega)).trans (extract_high page (0#1 ++ column))

@[simp] theorem invOperand_inv (inv : Bool) : ((invOperand inv).extractLsb' 0 1 == 1#1) = inv := by
  cases inv <;> decide

@[simp] theorem buttonOperand_button (i : BitVec 2) : (buttonOperand i).extractLsb' 0 2 = i := extract_low (0#22) i

/-! ## What the sequencer reads of an accepted word -/

namespace Machine

@[simp] theorem oprByte_accept (opc : BitVec 8) (b : Byte) (s : State) :
    (s.acceptWord (opWord opc (byteOperand b))).seq.oprByte = b := by
  simp [Sequencer.oprByte]

@[simp] theorem oprPage_accept (opc : BitVec 8) (page : BitVec 3) (column : BitVec 7) (s : State) :
    (s.acceptWord (opWord opc (cellOperand page column))).seq.oprPage = page := by
  simp [Sequencer.oprPage]

@[simp] theorem oprColumn_accept (opc : BitVec 8) (page : BitVec 3) (column : BitVec 7) (s : State) :
    (s.acceptWord (opWord opc (cellOperand page column))).seq.oprColumn = column := by
  simp [Sequencer.oprColumn]

@[simp] theorem oprInv_accept (opc : BitVec 8) (inv : Bool) (s : State) :
    (s.acceptWord (opWord opc (invOperand inv))).seq.oprInv = inv := by
  simp [Sequencer.oprInv]

@[simp] theorem oprButton_accept (opc : BitVec 8) (i : BitVec 2) (s : State) :
    (s.acceptWord (opWord opc (buttonOperand i))).seq.oprButton = i := by
  simp [Sequencer.oprButton]

end Machine

end Sys2Proof
end

