-- ==== Sys2Proof/Laws/Memory.lean ====
section
/-! SUPPORT. Display RAM: a read after a write, a write leaves every other cell alone, and every operation on it keeps the
canonical form (R50, R55, R59, R69). -/

namespace Sys2Proof.Machine

/-- The cell of a page and a column is one of the 1024 (R50, R55). -/
theorem displayAddr_lt (page : BitVec 3) (column : BitVec 7) :
    displayAddr page column < Config.nPages * Config.nCols := by
  have hp := page.isLt
  have hc := column.isLt
  simp only [displayAddr, Config.nPages, Config.nCols]
  omega

/-- Two cells with one address are one cell (R55). -/
theorem displayAddr_inj {p₁ p₂ : BitVec 3} {c₁ c₂ : BitVec 7} (h : displayAddr p₁ c₁ = displayAddr p₂ c₂) :
    p₁ = p₂ ∧ c₁ = c₂ := by
  have h₁ := c₁.isLt
  have h₂ := c₂.isLt
  simp only [displayAddr, Config.nCols] at h
  exact ⟨BitVec.eq_of_toNat_eq (by omega), BitVec.eq_of_toNat_eq (by omega)⟩

/-- A written cell reads as the byte written. -/
theorem Memory.read_write_same (a : Nat) (b : Byte) (m : Memory) : (m.write a b).read a = some b := by
  induction m with
  | nil => simp [Memory.write, Memory.read]
  | cons x m ih =>
    obtain ⟨x, v⟩ := x
    simp only [Memory.write]
    split
    · simp [Memory.read]
    · split
      · simp [Memory.read]
      · simp_all [Memory.read]

/-- A write leaves every other cell as it was. -/
theorem Memory.read_write_other {a c : Nat} (h : c ≠ a) (b : Byte) (m : Memory) :
    (m.write a b).read c = m.read c := by
  induction m with
  | nil => simp [Memory.write, Memory.read, h]
  | cons x m ih =>
    obtain ⟨x, v⟩ := x
    simp only [Memory.write]
    split
    · simp [Memory.read, h]
    · split
      · subst x; simp [Memory.read, h]
      · simp [Memory.read, ih]

/-- What a write lists: the cell written and cells listed before. -/
theorem Memory.mem_write {a : Nat} {b : Byte} {m : Memory} {x : Host.Cell} (h : x ∈ m.write a b) :
    x = (a, b) ∨ x ∈ m := by
  induction m with
  | nil => simp_all [Memory.write]
  | cons y m ih =>
    obtain ⟨y, v⟩ := y
    simp only [Memory.write] at h
    split at h
    · simpa using h
    · split at h
      · rcases List.mem_cons.1 h with h | h
        · exact .inl h
        · exact .inr (List.mem_cons_of_mem _ h)
      · rcases List.mem_cons.1 h with h | h
        · exact .inr (by simp [h])
        · exact (ih h).imp id (List.mem_cons_of_mem _)

/-- A write keeps the addresses rising. -/
theorem Memory.write_rising {m : Memory} (a : Nat) (b : Byte) (h : m.Pairwise (fun x y => x.1 < y.1)) :
    (m.write a b).Pairwise (fun x y => x.1 < y.1) := by
  induction m with
  | nil => simp [Memory.write]
  | cons x m ih =>
    obtain ⟨x, v⟩ := x
    rw [List.pairwise_cons] at h
    simp only [Memory.write]
    split
    · rename_i hlt
      rw [List.pairwise_cons]
      refine ⟨?_, List.pairwise_cons.2 h⟩
      intro y hy
      rcases List.mem_cons.1 hy with rfl | hy
      · exact hlt
      · exact Nat.lt_trans hlt (h.1 y hy)
    · split
      · subst x
        exact List.pairwise_cons.2 h
      · rw [List.pairwise_cons]
        refine ⟨?_, ih h.2⟩
        intro y hy
        rcases Memory.mem_write hy with rfl | hy
        · simp only; omega
        · exact h.1 y hy

/-- A write inside the 1024 cells keeps the canonical form. -/
theorem Memory.write_wf {m : Memory} {a : Nat} (b : Byte) (ha : a < Config.nPages * Config.nCols) (h : m.wf) : (m.write a b).wf := by
  refine ⟨Memory.write_rising a b h.1, ?_⟩
  intro x hx
  rcases Memory.mem_write hx with rfl | hx
  · exact ha
  · exact h.2 x hx

/-- Memory with nothing listed is canonical; power-on, a device reset and a broken sink leave it so (R65, R66, R72). -/
theorem Memory.wf_empty : Memory.wf [] := by simp [Memory.wf]

/-- Memory at block reset is canonical (R43, R65). -/
theorem reset_memory_wf : State.reset.sink.ram.wf := Memory.wf_empty

/-- Every reaction of the sink keeps the canonical form (R65 to R72). -/
theorem Sink.react_wf (l : Lines) (e : Event) {k : Sink} (h : k.ram.wf) : (k.react l e).ram.wf := by
  have h0 := Memory.wf_empty
  have hc : ∀ b, (Sink.command b k).ram.wf := by
    intro b
    simp only [Sink.command]
    repeat' split
    all_goals first | exact h | exact h0
  have hs : ∀ b, (Sink.store b k).ram.wf := by
    intro b
    simp only [Sink.store]
    split
    · simp only [Sink.advance]
      split <;> exact Memory.write_wf b (displayAddr_lt _ _) h
    · exact h0
  have hn : ∀ n, (Sink.configured n k).ram.wf := by
    intro n
    simp only [Sink.configured]
    split <;> exact h
  unfold Sink.react
  split
  · exact h0
  · simp only [Sink.resetHigh]; split <;> first | exact h | exact h0
  · simp only [Sink.held]; split <;> exact h
  · exact h
  · split
    · simp only [Sink.accept]
      split
      · exact h
      · exact h
      · exact h
      · exact h0
      · split
        · exact hn _
        · exact h0
      · exact h0
      · exact hc _
      · exact hs _
    · exact h
  all_goals exact h

end Sys2Proof.Machine
end

