-- ==== Sys2Proof/Laws/Step.lean ====
section
/-! SUPPORT. All that a step of the machine can do, said once: which operation a word runs, the three kinds of step, and how
a property kept by every step of the sequencer is kept by an operation and by the machine (R5, R81, R203). -/

namespace Sys2Proof.Machine

/-- An operation that answers a next state has run the steps of its opcode. -/
theorem exec_next {i : Instr} {s t : State} (h : exec i s = .next t) :
    ∃ steps, stepsOf (opcodeOf (encode i)) = some steps ∧ t = operation (encode i) steps s := by
  cases i with
  | pollEdge b =>
    simp only [exec, execPollEdge] at h
    split at h
    · exact ⟨pollEdgeSteps, by simp only [encode, opcodeOf_opWord]; rfl, (Host.Outcome.next.inj h).symm⟩
    · cases h
  | _ => exact ⟨_, by simp only [encode, opcodeOf_opWord]; rfl, (Host.Outcome.next.inj h).symm⟩

/-- The three kinds of step that answer a next state: a busy block goes on, a presented word runs its operation, nothing is
presented. -/
theorem step_next {s t : State} (h : step s = .next t) :
    (s.seq.opBusy = true ∧ ∃ steps, stepsOf s.seq.opc = some steps ∧
      t = (advance (steps.drop s.seq.pos) s).finish) ∨
    (s.PortFree ∧ ∃ w rest i, s.host.queue = w :: rest ∧ decode w = .ok i ∧
      exec i { s with host := { s.host with queue := rest } } = .next t) ∨
    (s.PortFree ∧ s.host.queue = [] ∧ t = s.idleStep) := by
  unfold step at h
  split at h
  · rename_i hb
    refine .inl ⟨hb, ?_⟩
    unfold resume at h
    split at h
    · rename_i steps hs
      exact ⟨steps, hs, (Host.Outcome.next.inj h).symm⟩
    · cases h
  · rename_i hb
    have hf : s.PortFree := by simpa [State.PortFree] using hb
    unfold State.fetchWord at h
    cases hq : s.host.queue with
    | nil =>
      simp only [hq] at h
      exact .inr (.inr ⟨hf, rfl, (Host.Outcome.next.inj h).symm⟩)
    | cons w rest =>
      simp only [hq, execWord] at h
      split at h
      · rename_i i hd
        exact .inr (.inl ⟨hf, w, rest, i, rfl, hd, h⟩)
      · cases h

/-! ## Properties kept by every step of the sequencer -/

/-- The state a run of the sequencer stands in. -/
def Progress.state : Progress → State
  | .moved s => s
  | .waits s => s

/-- A property is kept by the sequencer: by its steps, the count of steps, acceptance and completion. -/
structure SeqKeeps (P : State → Prop) : Prop where
  run : ∀ (a : SeqStep) (s : State), P s → P (a.run s).state
  tick : ∀ s : State, P s → P s.tickPos
  accept : ∀ (w : OpWord) (s : State), P s → P (s.acceptWord w)
  complete : ∀ s : State, P s → P s.complete

theorem SeqKeeps.advance {P : State → Prop} (k : SeqKeeps P) (l : List SeqStep) {s : State} (h : P s) :
    P (advance l s).state := by
  induction l generalizing s with
  | nil => exact h
  | cons a l ih =>
    have hr := k.run a s h
    simp only [Machine.advance]
    split
    · rename_i t ht
      rw [ht] at hr
      exact ih (k.tick t hr)
    · rename_i t ht
      rw [ht] at hr
      exact hr

theorem SeqKeeps.finish {P : State → Prop} (k : SeqKeeps P) (l : List SeqStep) {s : State} (h : P s) :
    P (Machine.advance l s).finish := by
  have ha := k.advance l h
  cases hp : Machine.advance l s with
  | moved t => rw [hp] at ha; exact k.complete t ha
  | waits t => rw [hp] at ha; exact ha

theorem SeqKeeps.operation {P : State → Prop} (k : SeqKeeps P) (w : OpWord) (l : List SeqStep) {s : State}
    (h : P s) : P (Machine.operation w l s) := by
  unfold Machine.operation
  split
  · exact h
  · exact k.finish l (k.accept w s h)

/-- A property the sequencer keeps, and that neither the queue nor an idle step disturbs, is kept by every step. -/
theorem SeqKeeps.step {P : State → Prop} (k : SeqKeeps P)
    (hq : ∀ (q : List OpWord) (s : State), P s → P { s with host := { s.host with queue := q } })
    (hi : ∀ s : State, P s → P s.idleStep) {s t : State} (h : P s) (hs : Machine.step s = .next t) : P t := by
  rcases step_next hs with ⟨-, steps, -, rfl⟩ | ⟨-, w, rest, i, -, -, he⟩ | ⟨-, -, rfl⟩
  · exact k.finish _ h
  · obtain ⟨steps, -, rfl⟩ := exec_next he
    exact k.operation _ _ (hq rest s h)
  · exact hi s h

end Sys2Proof.Machine
end

