-- ==== Sys2Proof/Laws/Operations.lean ====
section
/-! SUPPORT. All that the shared operations beside the frame can do: the device reset pulse, a poll of a button, a wait that
cannot end; and what every run of the sequencer keeps of the host and of the sink (R123, R162, R203, R44). -/

namespace Sys2Proof.Machine

/-! ## Parameters in their domains -/

theorem hasButton_iff (i : BitVec 2) : Config.hasButton i = true ↔ i.toNat < Config.nBtn := by
  unfold Config.hasButton Config.nBtn
  cases Config.thirdButton <;> revert i <;> decide

theorem nBtn_le : Config.nBtn ≤ 3 := by
  unfold Config.nBtn
  split <;> omega

theorem delayMin_le : Config.delayMin ≤ 250000 := by
  have h := Nat.mod_lt Config.delayMinChoice (show 0 < 250000 by decide)
  unfold Config.delayMin
  omega

/-! ## The logical cells -/

/-- A column of the display lies in one of the N_CELLS cells of its axis (R6, R150). -/
theorem cellX_lt (column : Nat) (h : column < Config.nCols) : cellX column < Config.nCells := by
  simp only [cellX, Config.cellWidth, Config.nCells, Config.nCols] at *
  omega

/-- A page lies in one of the N_CELLS cells of its axis (R6, R150). -/
theorem cellY_lt (page : Nat) (h : page < Config.nPages) : cellY page < Config.nCells := h

/-! ## The input registers -/

/-- PREV[i] after a write to PREV[i]. -/
theorem getPrev_setPrev (i : BitVec 2) (v : Bool) (p : Inputs) (h : i.toNat < 3) :
    (p.setPrev i v).getPrev i = v := by
  simp [Inputs.setPrev, Inputs.getPrev, h]

/-- PREV[j] after a write to another PREV[i]. -/
theorem getPrev_setPrev_ne (i j : BitVec 2) (v : Bool) (p : Inputs) (h : j ≠ i) :
    (p.setPrev i v).getPrev j = p.getPrev j := by
  have : j.toNat ≠ i.toNat := fun e => h (BitVec.eq_of_toNat_eq e)
  unfold Inputs.setPrev Inputs.getPrev
  by_cases hi : i.toNat < 3 <;> by_cases hj : j.toNat < 3 <;> simp [hi, hj]
  rw [Vector.getElem_set_ne]; exact Ne.symm this

/-- SETTLE after a write to PREV[i]. -/
theorem setPrev_settle (i : BitVec 2) (v : Bool) (p : Inputs) : (p.setPrev i v).settle = p.settle := by
  unfold Inputs.setPrev; split <;> rfl

/-! ## A poll of one button -/

/-- All that a poll of button `i` at level `l` has done (R162). -/
structure Polled (i : BitVec 2) (s t : State) (l : Level) : Prop where
  level : ∀ l' rest, s.env.buttons = l' :: rest → l = l' ∧ t.env.buttons = rest
  inp : t.inp = s.inp.setPrev i (l == Config.btnActiveLevel i)
  edge : t.res.resEdge = (l == Config.btnActiveLevel i && !s.inp.getPrev i)
  resByte : t.res.resByte = s.res.resByte
  bytes : t.byteTrace = s.byteTrace ++ [.sample i l] ++
    (if (l == Config.btnActiveLevel i && !s.inp.getPrev i) then [.wait .settle s.inp.settle] else [])
  lines : t.lines = s.lines
  seq : t.seq = s.seq
  sink : t.sink = s.sink
  cfg : t.spi.cfg = s.spi.cfg
  host : t.host = s.host
  spi : s.TransportIdle → t.spi = s.spi
  wedge : s.env.wedge = none → t.env.wedge = none

/-- Every poll is one at some level: the environment's next choice, where it has one. -/
theorem pollButton_polled (i : BitVec 2) (s : State) : ∃ l, Polled i s (s.shifterTurn.pollButton i) l := by
  have b1 := shifterTurn_byShifter s
  generalize hs1 : s.shifterTurn = s1 at b1
  refine ⟨s1.buttonLevel, ?_⟩
  have hbt : ∀ l' rest, s1.env.buttons = l' :: rest → s1.buttonLevel = l' ∧ s1.afterButton.env.buttons = rest := by
    intro l' rest h; simp [State.buttonLevel, State.afterButton, h]
  have hsp : s.TransportIdle → s1.spi = s.spi := fun hi => by rw [← hs1, shifterTurn_of_idle hi]
  generalize hl : s1.buttonLevel = l at hbt
  simp only [State.pollButton, hl, active]
  by_cases he : (l == Config.btnActiveLevel i && !s1.inp.getPrev i) = true
  · have he' : (l == Config.btnActiveLevel i && !(s1.afterButton.emit (Event.sample i l)).inp.getPrev i) = true := by
      simpa using he
    have he2 := he; rw [b1.inp] at he2
    simp only [he', if_true]
    generalize hs2 : ({ s1.afterButton.emit (Event.sample i l) with
      inp := (s1.afterButton.emit (Event.sample i l)).inp.setPrev i (l == Config.btnActiveLevel i) } : State) = s2
    have b2 := shifterTurn_byShifter s2
    have e1 : s2.spi = s1.spi := by subst hs2; simp
    have e2 : s2.sink = s1.sink := by subst hs2; simp [Sink.react]
    have e3 : s2.byteTrace = s1.byteTrace ++ [.sample i l] := by subst hs2; simp [State.byteTrace, Event.byteLevel]
    constructor
    · intro l' rest h
      rw [← b1.buttons] at h
      refine ⟨(hbt l' rest h).1, ?_⟩
      simp [b2.buttons]; subst hs2; simpa using (hbt l' rest h).2
    · simp [b2.inp]; subst hs2; simp [b1.inp]
    · exact he2.symm
    · simp [b2.res]; subst hs2; simp [b1.res]
    · rw [he2]
      show (s2.shifterTurn.delay _ _).byteTrace = _
      simp only [State.byteTrace_delay, b2.bytes, e3, b1.bytes, if_true]
      subst hs2; simp [setPrev_settle, b1.inp]
    · simp [b2.lines]; subst hs2; simp [b1.lines]
    · simp [b2.seq]; subst hs2; simp [b1.seq]
    · simp [b2.sink, e2, Sink.react, b1.sink]
    · simp [b2.cfg, e1, b1.cfg]
    · simp [b2.host]; subst hs2; simp [b1.host]
    · intro hi
      have : s2.shifterTurn = s2 := shifterTurn_of_idle (by simp only [State.TransportIdle, e1, hsp hi]; exact hi)
      simp [this, e1, hsp hi]
    · intro h; simp; exact b2.wedge (by subst hs2; simpa using b1.wedge h)
  · simp only [Bool.not_eq_true] at he
    have he' : (l == Config.btnActiveLevel i && !(s1.afterButton.emit (Event.sample i l)).inp.getPrev i) = false := by
      simpa using he
    have he2 := he; rw [b1.inp] at he2
    simp only [he', Bool.false_eq_true, if_false]
    constructor
    · intro l' rest h
      rw [← b1.buttons] at h
      refine ⟨(hbt l' rest h).1, by simpa using (hbt l' rest h).2⟩
    · simp [b1.inp]
    · exact he2.symm
    · simp [b1.res]
    · rw [he2]
      have : (s1.afterButton).byteTrace = s1.byteTrace := State.byteTrace_congr (by simp)
      show ((s1.afterButton.emit (Event.sample i l))).byteTrace = _
      simp [State.byteTrace_emit, Event.byteLevel, this, b1.bytes]
    · simp [b1.lines]
    · simp [b1.seq]
    · simp [Sink.react, b1.sink]
    · simp [b1.cfg]
    · simp [b1.host]
    · intro hi; simp [hsp hi]
    · intro h; simpa using b1.wedge h

/-! ## The device reset pulse -/

/-- All that the device reset pulse does. -/
theorem advance_resetPulse (s : State) :
    ∃ t, advance resetPulse s = .moved t ∧ t.byteTrace = s.byteTrace ++ resetEvents ∧
      t.lines = { s.lines with rst := .high } ∧ t.sink = Sink.afterPulse ∧ Kept s t ∧
      t.seq = { s.seq with pos := s.seq.pos + 4 } ∧ (s.TransportIdle → t.spi = s.spi) := by
  have b1 := shifterTurn_byShifter s
  let s1 := (s.shifterTurn.driveRst .low).tickPos
  have b2 := shifterTurn_byShifter s1
  let s2 := (s1.shifterTurn.delay .resetHold Config.resetHold).tickPos
  have b3 := shifterTurn_byShifter s2
  let s3 := (s2.shifterTurn.driveRst .high).tickPos
  have b4 := shifterTurn_byShifter s3
  refine ⟨(s3.shifterTurn.delay .resetHold Config.resetHold).tickPos, rfl, ?_, ?_, ?_, ?_, ?_, ?_⟩
  · simp [b4.bytes, s3, b3.bytes, s2, b2.bytes, s1, b1.bytes, resetEvents]
  · simp [b4.lines, s3, b3.lines, s2, b2.lines, s1, b1.lines]
  · simp [b4.sink, s3, b3.sink, s2, b2.sink, s1, Sink.react, Sink.resetLow, Sink.held, Sink.resetHigh,
      Sink.afterPulse]
  · have k1 : Kept s.shifterTurn s1 := ⟨rfl, rfl, rfl, rfl, rfl, rfl, id⟩
    have k2 : Kept s1.shifterTurn s2 := ⟨rfl, rfl, rfl, rfl, rfl, rfl, id⟩
    have k3 : Kept s2.shifterTurn s3 := ⟨rfl, rfl, rfl, rfl, rfl, rfl, id⟩
    have k4 : Kept s3.shifterTurn (s3.shifterTurn.delay .resetHold Config.resetHold).tickPos :=
      ⟨rfl, rfl, rfl, rfl, rfl, rfl, id⟩
    exact ((((((b1.kept.trans k1).trans b2.kept).trans k2).trans b3.kept).trans k3).trans b4.kept).trans k4
  · simp [b4.seq, s3, b3.seq, s2, b2.seq, s1, b1.seq]
  · intro hi
    have e1 : s.shifterTurn = s := shifterTurn_of_idle hi
    have i1 : s1.spi = s.spi := by simp [s1, e1]
    have e2 : s1.shifterTurn = s1 := shifterTurn_of_idle (by simpa [State.TransportIdle, i1] using hi)
    have i2 : s2.spi = s.spi := by simp [s2, e2, i1]
    have e3 : s2.shifterTurn = s2 := shifterTurn_of_idle (by simpa [State.TransportIdle, i2] using hi)
    have i3 : s3.spi = s.spi := by simp [s3, e3, i2]
    have e4 : s3.shifterTurn = s3 := shifterTurn_of_idle (by simpa [State.TransportIdle, i3] using hi)
    simp [e4, i3]

/-! ## Stuck states -/

/-- A busy state that steps to itself is stuck for ever (R203). -/
theorem stuck_of_step {s : State} (hb : s.seq.opBusy = true) (h : step s = .next s) : s.StuckForEver := by
  refine ⟨hb, fun n => ?_⟩
  induction n with
  | zero => rfl
  | succ n ih =>
    have e : Sys2Proof.core.step s = .next s := h
    simp only [Host.Core.run, e]; exact ih

/-- At a wait whose condition fails with no shifter step left, the block is stuck for ever (R203, R211). -/
theorem stuck_at_wait {s : State} {steps rest : List SeqStep} {c : WaitCond} (hb : s.seq.opBusy = true)
    (ho : stepsOf s.seq.opc = some steps)
    (hd : steps.drop s.seq.pos = .wait c :: rest) (hc : c.holds s = false) (ha : s.shifterActive = false) :
    s.StuckForEver := by
  apply stuck_of_step hb
  simp only [step, hb, if_true, resume, ho, hd, advance_cons, SeqStep.run, waitUntil_of_stuck hc ha]
  rfl

/-! ## What every run of the sequencer keeps -/

/-- The host stands still while the sequencer runs (R5). -/
theorem seqKeeps_host (Q : HostAgent → Prop) : SeqKeeps (fun s => Q s.host) where
  run := by
    intro a s h
    have ht : Q s.shifterTurn.host := by rw [(shifterTurn_byShifter s).host]; exact h
    cases a with
    | wait c =>
      simp only [SeqStep.run]
      rcases waitUntil_cases c s with ⟨t, h1, hb, -⟩ | ⟨t, h1, hb, -⟩ <;> rw [h1] <;>
        simp only [Progress.state, hb.host] <;> exact h
    | poll =>
      obtain ⟨l, hp⟩ := pollButton_polled s.seq.oprButton s
      simpa [SeqStep.run, Progress.state, hp.host] using h
    | _ => first | exact ht | exact h
  tick := fun _ h => h
  accept := fun _ _ h => h
  complete := fun _ h => h

/-- A property of the sink that every reaction keeps is kept by the sequencer. -/
theorem seqKeeps_sink (Q : Sink → Prop) (hr : ∀ l e k, Q k → Q (k.react l e)) :
    SeqKeeps (fun s => Q s.sink) where
  run := by
    intro a s h
    have ht : Q s.shifterTurn.sink := by rw [(shifterTurn_byShifter s).sink]; exact h
    cases a with
    | wait c =>
      simp only [SeqStep.run]
      rcases waitUntil_cases c s with ⟨t, h1, hb, -⟩ | ⟨t, h1, hb, -⟩ <;> rw [h1] <;>
        simp only [Progress.state, hb.sink] <;> exact h
    | poll =>
      obtain ⟨l, hp⟩ := pollButton_polled s.seq.oprButton s
      simpa [SeqStep.run, Progress.state, hp.sink] using h
    | driveRst v =>
      simp only [SeqStep.run, Progress.state, State.driveRst_sink]
      exact hr _ _ _ ht
    | load src =>
      simp only [SeqStep.run, Progress.state, State.loadTx_sink]
      exact hr _ _ _ ht
    | resetHold =>
      simp only [SeqStep.run, Progress.state, State.delay_sink]
      exact hr _ _ _ ht
    | _ => first | exact ht | exact h
  tick := fun _ h => h
  accept := fun _ _ h => h
  complete := fun _ h => h

/-- An idle step does not reach the sink. -/
theorem idleStep_sink (s : State) : s.idleStep.sink = s.sink := by
  have hl : s.loopStep.sink = s.sink := by
    unfold State.loopStep
    split <;> rfl
  unfold State.idleStep
  split
  · split
    · exact (shifterStep_byShifter s).sink
    · rfl
  all_goals exact hl

end Sys2Proof.Machine
end

