-- ==== Sys2Proof/Laws/PerInstr.lean ====
section
/-! SUPPORT. One fact per constructor of Instr: its word is of the row of the opcode table that bears its name, the opcode
byte is the row's, and every bit the row's mask covers is as the row's match says (R81, R82). -/

namespace Sys2Proof.Laws.TableRow

/-- The word of `i` is of a row of the opcode table named as `i` is named. -/
def Statement (i : Instr) : Prop :=
  ∃ r ∈ opTable, r.mnemonic = i.mnemonic ∧ encode i &&& r.mask = r.pattern ∧
    opcodeOf (encode i) = opcodeOf r.pattern

theorem spiInit : Statement .spiInit :=
  ⟨⟨"SPI_INIT", 0x01000000#32, 0xFFFFFFFF#32⟩, by simp [opTable, opTableLow], rfl, by decide, by decide⟩

theorem write (b : Byte) : Statement (.write b) :=
  ⟨⟨"WRITE", 0x02000000#32, 0xFFFFFF00#32⟩, by simp [opTable, opTableLow], rfl, by revert b; decide,
    by simp only [encode, opcodeOf_opWord]; decide⟩

theorem read : Statement .read :=
  ⟨⟨"READ", 0x03000000#32, 0xFFFFFFFF#32⟩, by simp [opTable, opTableLow], rfl, by decide, by decide⟩

theorem reset : Statement .reset :=
  ⟨⟨"RESET", 0x10000000#32, 0xFFFFFFFF#32⟩, by simp [opTable, opTableLow], rfl, by decide, by decide⟩

theorem command (b : Byte) : Statement (.command b) :=
  ⟨⟨"COMMAND", 0x11000000#32, 0xFFFFFF00#32⟩, by simp [opTable, opTableLow], rfl, by revert b; decide,
    by simp only [encode, opcodeOf_opWord]; decide⟩

theorem data (b : Byte) : Statement (.data b) :=
  ⟨⟨"DATA", 0x12000000#32, 0xFFFFFF00#32⟩, by simp [opTable, opTableLow], rfl, by revert b; decide,
    by simp only [encode, opcodeOf_opWord]; decide⟩

theorem init : Statement .init :=
  ⟨⟨"INIT", 0x13000000#32, 0xFFFFFFFF#32⟩, by simp [opTable, opTableHigh], rfl, by decide, by decide⟩

theorem clear : Statement .clear :=
  ⟨⟨"CLEAR", 0x14000000#32, 0xFFFFFFFF#32⟩, by simp [opTable, opTableHigh], rfl, by decide, by decide⟩

theorem selectPage (page : BitVec 3) (column : BitVec 7) : Statement (.selectPage page column) :=
  ⟨⟨"SELECT_PAGE", 0x15000000#32, 0xFFFFF880#32⟩, by simp [opTable, opTableHigh], rfl,
    by revert page column; decide, by simp only [encode, opcodeOf_opWord]; decide⟩

theorem render (inv : Bool) : Statement (.render inv) :=
  ⟨⟨"RENDER", 0x20000000#32, 0xFFFFFFFE#32⟩, by simp [opTable, opTableHigh], rfl, by revert inv; decide,
    by simp only [encode, opcodeOf_opWord]; decide⟩

theorem pollEdge (i : BitVec 2) : Statement (.pollEdge i) :=
  ⟨⟨"POLL_EDGE", 0x30000000#32, 0xFFFFFFFC#32⟩, by simp [opTable, opTableHigh], rfl, by revert i; decide,
    by simp only [encode, opcodeOf_opWord]; decide⟩

theorem setSettle (n : Count) : Statement (.setSettle n) := by
  refine ⟨⟨"SET_SETTLE", 0x31000000#32, 0xFF000000#32⟩, by simp [opTable, opTableHigh], rfl, ?_,
    by simp only [encode, opcodeOf_opWord]; decide⟩
  show opWord 0x31#8 n &&& 0xFF000000#32 = 0x31000000#32
  have hm : (0xFF000000#32 : OpWord) = (0xFF#8 ++ 0#24 : BitVec (8 + 24)) := by decide
  have hp : (0x31000000#32 : OpWord) = (0x31#8 ++ 0#24 : BitVec (8 + 24)) := by decide
  rw [hm, hp]
  apply BitVec.eq_of_getLsbD_eq
  intro k hk
  simp only [opWord, BitVec.getLsbD_and, BitVec.getLsbD_append]
  by_cases h : k < 24
  · simp [h]
  · have : k - 24 < 8 := by omega
    generalize k - 24 = j at *
    simp only [h, ↓reduceIte]
    interval_cases j <;> rfl

end Sys2Proof.Laws.TableRow
end

