-- ==== Sys2Proof/Tests/Slice0.lean ====
section
/-! SUPPORT. Tests on small states, with expected values from spec/95_test_vectors.md (the vector is named), and for every
statement with hypotheses a state and operands that meet them all. -/

namespace Sys2Proof.Tests

open Sys2Proof.Machine

/-! ## Small states -/

/-- Block reset with a host attached that is not the Control Loop and presents nothing. -/
def quiet : State := { State.reset with host := { HostAgent.reset with loop := .off } }

/-- The start state of the vectors: block reset, then SPI_INIT. -/
def serving : State := { quiet with spi := { Transport.reset with cfg := SpiCfg.fixed, sck := true } }

/-- `serving` with the levels the buttons and MISO will show. -/
def scripted (buttons miso : List Level) : State :=
  { serving with env := { Environment.reset with buttons := buttons, miso := miso } }

/-- `serving` with 0xA5 in TXBUF. -/
def loaded (miso : List Level) : State :=
  { scripted [] miso with spi := { serving.spi with txbuf := 0xA5#8, txe := false } }

/-- `serving` with a Ready device whose pointer is at (page, column) and one cell known. -/
def pointed (page : BitVec 3) (column : BitVec 7) : State :=
  { serving with sink :=
    { phase := .ready, ram := [(5, 0x77#8)], page := some page, colLo := some (column.extractLsb' 0 4),
      colHi := some (column.extractLsb' 4 3), on := some true } }

/-- A wedged shifter with 0xA5 in TXBUF. -/
def wedgedBusy : State := { loaded [] with env := { Environment.reset with wedge := some 0 } }

/-- A wedged shifter on an idle transport. -/
def wedgedIdle : State := { serving with env := { Environment.reset with wedge := some 0 } }

/-- A READ that waits for a byte: OP_BUSY is 1. -/
def waiting : State := { serving with seq := { Sequencer.reset with opBusy := true, opc := 0x03#8 } }

/-- `s` with the Control Loop at a place of its iteration. -/
def looping (p : LoopPhase) (s : State) : State := { s with host := { s.host with loop := p } }

/-- The next state, where there is one. -/
def after (o : Host.Outcome State Fault Refusal) : Option State :=
  match o with
  | .next t => some t
  | .fault _ => none
  | .refused _ => none

/-! ## Well-formedness -/

theorem test_wf_button_2_bits_is_not_enough : Instr.wf (.pollEdge 3#2) = false := by decide

theorem test_wf_button_1 : Instr.wf (.pollEdge 1#2) = true := by decide

/-! ## Decoding (V1, V2) -/

theorem test_decode_spiInit : decode 0x01000000#32 = .ok .spiInit := by rfl
theorem test_decode_write : decode 0x020000A5#32 = .ok (.write 0xA5#8) := by rfl
theorem test_decode_read : decode 0x03000000#32 = .ok .read := by rfl
theorem test_decode_reset : decode 0x10000000#32 = .ok .reset := by rfl
theorem test_decode_command : decode 0x110000AF#32 = .ok (.command 0xAF#8) := by rfl
theorem test_decode_data : decode 0x120000FF#32 = .ok (.data 0xFF#8) := by rfl
theorem test_decode_init : decode 0x13000000#32 = .ok .init := by rfl
theorem test_decode_clear : decode 0x14000000#32 = .ok .clear := by rfl
theorem test_decode_selectPage : decode 0x15000300#32 = .ok (.selectPage 3#3 0#7) := by rfl
theorem test_decode_selectPage_last : decode 0x1500077F#32 = .ok (.selectPage 7#3 127#7) := by rfl
theorem test_decode_render : decode 0x20000001#32 = .ok (.render true) := by rfl
theorem test_decode_pollEdge : decode 0x30000001#32 = .ok (.pollEdge 1#2) := by rfl
theorem test_decode_setSettle : decode 0x31001F40#32 = .ok (.setSettle 8000#24) := by rfl
theorem test_decode_setSettle_last : decode 0x31FFFFFF#32 = .ok (.setSettle 16777215#24) := by rfl

theorem test_decode_unassigned_00 : decode 0x00000000#32 = .error (.unassignedOpcode 0x00#8) := by rfl
theorem test_decode_unassigned_16 : decode 0x16000000#32 = .error (.unassignedOpcode 0x16#8) := by rfl
theorem test_decode_write_bit_8 : decode 0x02000100#32 = .error (.unusedBitSet 0x02#8 0x000100#24) := by rfl
theorem test_decode_init_operand : decode 0x13000001#32 = .error (.unusedBitSet 0x13#8 0x000001#24) := by rfl
theorem test_decode_column_128 : decode 0x15000080#32 = .error (.unusedBitSet 0x15#8 0x000080#24) := by rfl
theorem test_decode_page_8 : decode 0x15000800#32 = .error (.unusedBitSet 0x15#8 0x000800#24) := by rfl
theorem test_decode_render_bit_1 : decode 0x20000002#32 = .error (.unusedBitSet 0x20#8 0x000002#24) := by rfl
theorem test_decode_pollEdge_bit_2 : decode 0x30000004#32 = .error (.unusedBitSet 0x30#8 0x000004#24) := by rfl
theorem test_decode_button_3 : decode 0x30000003#32 = .error (.absentButton 3#2) := by rfl

/-- No word is of two rows: two rows differ in a bit that both masks cover. -/
theorem test_rows_do_not_overlap :
    opTable.Pairwise fun r q => r.pattern &&& (r.mask &&& q.mask) ≠ q.pattern &&& (r.mask &&& q.mask) := by
  decide

theorem test_table_word_is_fetched :
    (State.reset.withFetchWord 32 0x1500077F).host.queue = [0x1500077F#32] := by rfl

/-! ## Geometry (R6, R51) -/

theorem test_geometry : Config.pixelRows = Config.nPages * 8 ∧ Config.nCells = Config.nPages ∧
    Config.nCells * Config.cellWidth = Config.nCols := by decide

/-! ## The reference host (R182) -/

theorem test_reset_starts_reference_host : (after (step State.reset)).map (fun t => t.host.queue) =
    some [0x01000000#32, 0x13000000#32, 0x20000000#32] := by rfl

/-! ## Serial Transport (V10 to V17, P6) -/

theorem test_spiInit_flags : (after (exec .spiInit State.reset)).map
    (fun t => (t.spi.cfg.spiEn, t.spi.txe, t.spi.rxne, t.spi.sck, t.trace)) =
      some (true, true, false, true, []) := by rfl

/-- V18: the byte in flight goes out whole before SPI_INIT clears RXNE. -/
theorem test_spiInit_waits_for_byte :
    (after (exec .spiInit (loaded [false, true, false, true, true, false, true, false]))).map
      (fun t => (t.trace, t.spi.txe, t.spi.rxne, t.spi.mosi)) = some ([.rx 0x5A#8], true, false, true) := by decide

theorem test_write_loads : (after (exec (.write 0xA5#8) serving)).map
    (fun t => (t.spi.txbuf, t.spi.txe, t.byteTrace, t.seq.opBusy)) =
      some (0xA5#8, false, [.byte 0xA5#8], false) := by rfl

/-- P6: MISO 0,1,0,1,1,0,1,0 is read as 0x5A. -/
theorem test_read_byte : (after (exec .read (loaded [false, true, false, true, true, false, true, false]))).map
    (fun t => (t.res.port, t.spi.rxne, t.spi.txe, t.seq.opBusy)) = some (0x5A#8, false, true, false) := by decide

/-- V15. -/
theorem test_read_nothing_coming : (after (exec .read serving)).map (fun t => (t.seq.opBusy, t.trace)) =
    some (true, []) := by rfl

/-- V11: the first bit of 0xA5 on MOSI, after the load and one fall of SCK. -/
theorem test_first_bit : (after (Sys2Proof.core.run 2 (loaded []))).map
    (fun t => (t.spi.sck, t.spi.mosi, t.spi.bitcnt)) = some (false, true, 8#4) := by rfl

/-! ## Display Protocol Driver (V20 to V24) -/

theorem test_command_frame : (after (exec (.command 0xAF#8) serving)).map State.byteTrace =
    some [.lineCs .asserted, .lineDc .command, .byte 0xAF#8, .lineCs .deasserted] := by decide

theorem test_data_frame : (after (exec (.data 0x00#8) serving)).map (fun t => (t.byteTrace, t.lines.dc)) =
    some ([.lineCs .asserted, .lineDc .data, .byte 0x00#8, .lineCs .deasserted], .data) := by decide

theorem test_reset_without_spiInit : (after (exec .reset State.reset)).map (fun t => (t.trace, t.sink.phase)) =
    some ([.lineRst .low, .wait .resetHold Config.resetHold, .lineRst .high, .wait .resetHold Config.resetHold],
      .config 0) := by rfl

theorem test_selectPage_column_100 : (after (exec (.selectPage 0#3 100#7) serving)).map
    (fun t => t.byteTrace.filterMap fun e => match e with | .byte b => some b | _ => none) =
      some [0xB0#8, 0x04#8, 0x16#8] := by decide

/-- R69: the byte goes to the cell of the pointer, and the pointer moves on. -/
theorem test_data_reaches_cell : (after (exec (.data 0xFF#8) (pointed 3#3 1#7))).map
    (fun t => (t.sink.ram.read 385, t.sink.ram.read 5, t.sink.colLo)) =
      some (some 0xFF#8, some 0x77#8, some 2#4) := by decide

/-! ## Pattern Renderer (V41) -/

theorem test_pattern_corners : (pattern false 0 15, pattern false 0 16, pattern false 7 127, pattern true 3 64) =
    (0x00#8, 0xFF#8, 0x00#8, 0x00#8) := by decide

/-! ## Debounced Input (V50, V55) -/

/-- A poll of button 1 at level `l`, by whether `l` is its active level. -/
theorem poll_scripted (l : Level) (e : Bool) (h : active 1#2 l = e) :
    (after (exec (.pollEdge 1#2) (scripted [l] []))).map (fun t => (t.res.port, t.byteTrace)) =
      some ((BitVec.ofBool e).setWidth 8,
        .sample 1#2 l :: if e then [.wait .settle Config.settleDefault] else []) := by
  rw [show exec (.pollEdge 1#2) (scripted [l] []) =
    .next (Progress.finish (.moved (((scripted [l] []).acceptWord 0x30000001#32).pollButton 1#2).tickPos)) from rfl]
  have hbody : State.pollButton 1#2 ((scripted [l] []).acceptWord 0x30000001#32) =
      let s := ((scripted [l] []).acceptWord 0x30000001#32).afterButton.emit (.sample 1#2 l)
      let s := { s with inp := s.inp.setPrev 1#2 e }
      let s := if e then s.shifterTurn.delay .settle s.inp.settle else s
      { s with res := { s.res with resEdge := e } } := by
    cases e <;> simp only [State.pollButton] <;> rw [show State.buttonLevel _ = l from rfl, h] <;> rfl
  rw [hbody]
  cases e <;> rfl

/-- V50, poll 2: a press, from PREV[1] = 0. -/
theorem test_poll_press : (after (exec (.pollEdge 1#2) (scripted [Config.btnActiveLevel 1#2] []))).map
    (fun t => (t.res.port, t.byteTrace)) =
      some (0x01#8, [.sample 1#2 (Config.btnActiveLevel 1#2), .wait .settle Config.settleDefault]) :=
  poll_scripted _ true (by simp [active])

/-- V50, poll 1: no press. -/
theorem test_poll_released : (after (exec (.pollEdge 1#2) (scripted [!Config.btnActiveLevel 1#2] []))).map
    (fun t => (t.res.port, t.byteTrace)) = some (0x00#8, [.sample 1#2 (!Config.btnActiveLevel 1#2)]) :=
  poll_scripted _ false (by simp [active])

theorem test_setSettle : (after (exec (.setSettle 8000#24) State.reset)).map (fun t => (t.inp.settle, t.trace)) =
    some (8000#24, []) := by rfl

/-! ## Witnesses: the hypotheses of the statements can be met

Each theorem is named after its statement; where a statement has clauses, each clause has its own. -/

theorem meets_DecodeEncodeRoundTrip : Instr.wf (.selectPage 7#3 127#7) = true ∧ Instr.wf (.pollEdge 1#2) = true := by
  decide

theorem meets_EncodeDecodeRoundTrip : decode 0x1500077F#32 = .ok (.selectPage 7#3 127#7) := by rfl

theorem meets_DecodeFollowsOpcodeTable : decode 0x020000FF#32 = .ok (.write 0xFF#8) ∧
    (⟨"POLL_EDGE", 0x30000000#32, 0xFFFFFFFC#32⟩ : OpRow) ∈ opTable ∧
    0x30000001#32 &&& 0xFFFFFFFC#32 = 0x30000000#32 ∧ ((0x30000001#32).extractLsb' 0 2).toNat < Config.nBtn := by
  refine ⟨rfl, by decide, by decide, ?_⟩
  unfold Config.nBtn
  cases Config.thirdButton <;> decide

theorem nBtn_le_three : Config.nBtn ≤ 3 := by
  unfold Config.nBtn
  cases Config.thirdButton <;> decide

theorem nBtn_ge_two : 2 ≤ Config.nBtn := by
  unfold Config.nBtn
  cases Config.thirdButton <;> decide

theorem meets_ReservedWordsAreRefused_word :
    (State.reset.presentNext 0x04000000#32).PortFree ∧
    (State.reset.presentNext 0x04000000#32).host.queue = [0x04000000#32] ∧
    ∀ r ∈ opTable, 0x04000000#32 &&& r.mask ≠ r.pattern :=
  ⟨rfl, rfl, by decide⟩

theorem meets_ReservedWordsAreRefused_button :
    (State.reset.presentNext 0x30000003#32).PortFree ∧
    (State.reset.presentNext 0x30000003#32).host.queue = [0x30000003#32] ∧
    (0x30000003#32).extractLsb' 24 8 = 0x30#8 ∧ Config.nBtn ≤ ((0x30000003#32).extractLsb' 0 2).toNat ∧
    Config.nBtn ≤ (3#2).toNat :=
  ⟨rfl, rfl, by decide, nBtn_le_three, nBtn_le_three⟩

theorem meets_StepRunsPresentedWord :
    (State.reset.presentNext 0x01000000#32).PortFree ∧
    (State.reset.presentNext 0x01000000#32).host.queue = [0x01000000#32] ∧ decode 0x01000000#32 = .ok .spiInit :=
  ⟨rfl, rfl, rfl⟩

theorem meets_BusyPortBlocksHost : waiting.seq.opBusy = true ∧ step waiting = .next waiting ∧
    Instr.wf (.write 0x00#8) = true :=
  ⟨rfl, rfl, rfl⟩

theorem meets_IdleBlockOnlyShifts : quiet.OnlyShifter ∧ quiet.TransportIdle := ⟨⟨rfl, rfl, rfl⟩, rfl⟩

/-- `waiting` steps to itself, for ever. -/
theorem meets_BlockResetEndsStallAndKeepsDevice : waiting.StuckForEver := by
  refine ⟨rfl, fun n => ?_⟩
  induction n with
  | zero => rfl
  | succ n ih =>
    have e : Sys2Proof.core.step waiting = .next waiting := rfl
    simp only [Host.Core.run, e]
    exact ih

theorem meets_BlockResetEndsStallAndKeepsDevice_loop :
    (looping .upEdge waiting).StuckForEver ∧ (looping .upEdge waiting).host.loop ≠ .off := by
  refine ⟨⟨rfl, fun n => ?_⟩, by decide⟩
  induction n with
  | zero => rfl
  | succ n ih =>
    have e : Sys2Proof.core.step (looping .upEdge waiting) = .next (looping .upEdge waiting) := rfl
    simp only [Host.Core.run, e]
    exact ih

/-- A COMMAND stalled at F1 by a stopped shifter, with the Control Loop attached. -/
def stalled : State :=
  looping .upEdge { wedgedBusy with seq := { Sequencer.reset with opBusy := true, opc := 0x11#8 } }

theorem meets_BlockResetEndsStallAndKeepsDevice_wedged : stalled.StuckForEver ∧ stalled.Wedged := by
  refine ⟨⟨rfl, fun n => ?_⟩, rfl⟩
  induction n with
  | zero => rfl
  | succ n ih =>
    have e : Sys2Proof.core.step stalled = .next stalled := rfl
    simp only [Host.Core.run, e]
    exact ih

theorem meets_BlockResetRecoversBlock : serving.RunsAfterReset ∧ stalled.RunsAfterReset := ⟨.inl rfl, .inr rfl⟩

/-- R204: a stopped shifter steps again after a power cycle. -/
theorem test_power_cycle_recovers_shifter : stalled.powerCycle.env.wedge = none ∧
    stalled.powerCycle.host.loop = .boot := by decide

theorem meets_SpiInitConfigures_first : State.reset.PortFree ∧ State.reset.spi.cfg.spiEn = false := ⟨rfl, rfl⟩

theorem meets_SpiInitConfigures_again : (loaded []).PortFree ∧ (loaded []).Serves ∧
    (loaded []).spi.cfg.spiEn = true ∧ (loaded []).spi.bytesHeld = 1 := ⟨rfl, ⟨rfl, rfl⟩, rfl, rfl⟩

theorem meets_SpiInitConfigures_idle : wedgedIdle.PortFree ∧ wedgedIdle.TransportIdle ∧
    wedgedIdle.spi.cfg.spiEn = true := ⟨rfl, rfl, rfl⟩

theorem meets_WriteLoadsBuffer_free : serving.PortFree ∧ serving.spi.txe = true ∧ serving.lines.cs = .deasserted :=
  ⟨rfl, rfl, rfl⟩

theorem meets_WriteLoadsBuffer_full : (loaded []).PortFree ∧ (loaded []).spi.txe = false ∧ (loaded []).Serves :=
  ⟨rfl, rfl, rfl, rfl⟩

theorem meets_WriteLoadsBuffer_selected :
    let s : State := { serving with lines := { cs := .asserted, dc := .data, rst := .high } }
    s.PortFree ∧ s.spi.txe = true ∧ s.lines.cs = .asserted :=
  ⟨rfl, rfl, rfl⟩

theorem meets_ReadTakesReceivedByte_there :
    let s : State := { serving with spi := { serving.spi with rxne := true, rxbuf := 0x5A#8 } }
    s.PortFree ∧ s.spi.rxne = true ∧ s.TransportIdle :=
  ⟨rfl, rfl, rfl⟩

theorem meets_ReadTakesReceivedByte_coming : (loaded []).PortFree ∧ (loaded []).Serves ∧ (loaded []).spi.busy = true :=
  ⟨rfl, ⟨rfl, rfl⟩, rfl⟩

theorem meets_ReadWithNothingComingIsStuck :
    State.reset.PortFree ∧ State.reset.spi.rxne = false ∧ State.reset.TransportIdle :=
  ⟨rfl, rfl, rfl⟩

theorem meets_FairShifterCompletesEveryOperation :
    Instr.wf (.write 0x00#8) = true ∧ Instr.write 0x00#8 ≠ .read ∧ serving.PortFree ∧ serving.Serves :=
  ⟨rfl, by decide, rfl, rfl, rfl⟩

theorem meets_WedgedShifterStallsWaits_first :
    wedgedBusy.PortFree ∧ wedgedBusy.Wedged ∧ wedgedBusy.spi.busy = true :=
  ⟨rfl, rfl, rfl⟩

theorem meets_WedgedShifterStallsWaits_inside :
    wedgedIdle.PortFree ∧ wedgedIdle.Wedged ∧ wedgedIdle.TransportIdle :=
  ⟨rfl, rfl, rfl⟩

theorem meets_WedgedShifterStallsWaits_others : wedgedBusy.PortFree ∧ wedgedBusy.Wedged ∧
    wedgedBusy.spi.cfg.spiEn = true ∧ wedgedBusy.spi.busy = true ∧ wedgedBusy.spi.txe = false ∧
    wedgedBusy.spi.rxne = false :=
  ⟨rfl, rfl, rfl, rfl, rfl, rfl⟩

theorem meets_TransportBeforeSpiInit : State.reset.PortFree ∧ State.reset.spi.cfg.spiEn = false ∧
    State.reset.spi.bitcnt = 0#4 ∧ State.reset.spi.txe = true :=
  ⟨rfl, rfl, rfl, rfl⟩

theorem meets_TransportBeforeSpiInit_full :
    let s : State := { State.reset with spi := { Transport.reset with txe := false } }
    s.PortFree ∧ s.spi.cfg.spiEn = false ∧ s.spi.bitcnt = 0#4 ∧ s.spi.txe = false :=
  ⟨rfl, rfl, rfl, rfl⟩

theorem meets_ShifterStepsFollowRules_load : (loaded []).OnlyShifter ∧ ¬ (loaded []).Wedged ∧
    (loaded []).spi.cfg.spiEn = true ∧ (loaded []).spi.bitcnt = 0#4 ∧ (loaded []).spi.txe = false :=
  ⟨⟨rfl, rfl, rfl⟩, by simp [State.Wedged, loaded, scripted, Environment.reset], rfl, rfl, rfl⟩

/-- `serving` with `n` bits of a byte left. -/
def shifting (n : BitVec 4) (half : Bool) : State :=
  { serving with spi := { serving.spi with shift := 0xA5#8, bitcnt := n, half := half, sck := !half } }

theorem meets_ShifterStepsFollowRules_lead : (shifting 8#4 false).OnlyShifter ∧ ¬ (shifting 8#4 false).Wedged ∧
    (shifting 8#4 false).spi.bitcnt ≠ 0#4 ∧ (shifting 8#4 false).spi.half = false :=
  ⟨⟨rfl, rfl, rfl⟩, by simp [State.Wedged, shifting, serving, quiet, State.reset, Environment.reset],
    by decide, rfl⟩

theorem meets_ShifterStepsFollowRules_trail : (shifting 2#4 true).OnlyShifter ∧ ¬ (shifting 2#4 true).Wedged ∧
    (shifting 2#4 true).spi.bitcnt ≠ 0#4 ∧ (shifting 2#4 true).spi.half = true ∧
    (shifting 2#4 true).spi.bitcnt ≠ 1#4 :=
  ⟨⟨rfl, rfl, rfl⟩, by simp [State.Wedged, shifting, serving, quiet, State.reset, Environment.reset],
    by decide, rfl, by decide⟩

theorem meets_ShifterStepsFollowRules_last : (shifting 1#4 true).OnlyShifter ∧ ¬ (shifting 1#4 true).Wedged ∧
    (shifting 1#4 true).spi.bitcnt = 1#4 ∧ (shifting 1#4 true).spi.half = true ∧
    (shifting 1#4 true).spi.rxne = false :=
  ⟨⟨rfl, rfl, rfl⟩, by simp [State.Wedged, shifting, serving, quiet, State.reset, Environment.reset], rfl, rfl, rfl⟩

theorem meets_ByteOnTheWire :
    let m := [false, true, false, true, true, false, true, false]
    (loaded m).OnlyShifter ∧ (loaded m).Serves ∧ (loaded m).spi.bitcnt = 0#4 ∧ (loaded m).spi.txe = false ∧
    (loaded m).spi.rxne = false ∧ m.length = 8 ∧ (loaded m).env.miso = m ++ [] :=
  ⟨⟨rfl, rfl, rfl⟩, ⟨rfl, rfl⟩, rfl, rfl, rfl, rfl, rfl⟩

/-- For COMMAND, DATA, SELECT_PAGE, CLEAR, RENDER, INIT and the composites. -/
theorem meets_framer_statements : serving.PortFree ∧ serving.Serves ∧ (loaded []).PortFree ∧ (loaded []).Serves :=
  ⟨rfl, ⟨rfl, rfl⟩, rfl, rfl, rfl⟩

theorem meets_ResetPulsesDeviceLine : State.reset.PortFree ∧ State.reset.TransportIdle := ⟨rfl, rfl⟩

theorem meets_EventCountsOfOperations : Instr.wf .reset = true ∧ serving.PortFree ∧ serving.Serves ∧
    ∃ t, exec .reset serving = .next t ∧ t.PortFree ∧ t.byteTrace = serving.byteTrace ++ resetEvents :=
  ⟨rfl, rfl, ⟨rfl, rfl⟩, _, rfl, rfl, rfl⟩

theorem meets_InitMakesDeviceReady : State.reset.PortFree ∧ State.reset.env.wedge = none := ⟨rfl, rfl⟩

/-- For CLEAR, RENDER, SELECT_PAGE, COMMAND and 129 times DATA on a Ready device. -/
theorem meets_ready_statements : (pointed 0#3 0#7).PortFree ∧ (pointed 0#3 0#7).Serves ∧
    (pointed 0#3 0#7).sink.phase = .ready ∧ (List.replicate 129 (0x00#8 : Byte)).length = 129 :=
  ⟨rfl, ⟨rfl, rfl⟩, rfl, by simp⟩

theorem meets_UnreadyDeviceShowsNothing : serving.PortFree ∧ serving.Serves ∧ SinkInv serving ∧
    serving.sink.phase ≠ .ready :=
  ⟨rfl, ⟨rfl, rfl⟩, by simp [SinkInv, serving, quiet, State.reset, Sink.powerOn], by decide⟩

/-- `serving` with a device in phase `p`. -/
def withDevice (p : Phase) : State := { serving with sink := { Sink.powerOn with phase := p } }

/-- For each phase that has a clause; the first and the last place of the configuration among them. -/
theorem meets_ConfigurationIsChecked (n : Fin 26) : (withDevice (.config n)).PortFree ∧
    (withDevice (.config n)).Serves ∧ (withDevice (.config n)).sink.phase = .config n := ⟨rfl, ⟨rfl, rfl⟩, rfl⟩

theorem meets_ConfigurationIsChecked_bytes : Config.initSeq[25]? = some 0xAF#8 ∧ Config.initSeq[25]? ≠ some 0x00#8 ∧
    Config.initSeq[0]? = some (Config.initSeqAt 0) := ⟨rfl, by decide, rfl⟩

theorem meets_FramesOutsideConfiguration (p : Phase) : (withDevice p).PortFree ∧ (withDevice p).Serves ∧
    (withDevice p).sink.phase = p := ⟨rfl, ⟨rfl, rfl⟩, rfl⟩

/-- For each phase of SinkFollowsResetLine. -/
theorem meets_SinkFollowsResetLine (p : Phase) : ({ Sink.powerOn with phase := p } : Sink).phase = p := rfl

/-- R68: the last byte of the table, in its place, makes the device Ready; a byte out of place breaks it. -/
theorem test_last_configuration_byte :
    (after (exec (.command 0xAF#8) (withDevice (.config 25)))).map (fun t => (t.sink.phase, t.sink.on)) =
      some (.ready, some true) ∧
    (after (exec (.command 0xAE#8) (withDevice (.config 25)))).map (fun t => t.sink.phase) = some .broken := by decide

theorem meets_PatternFollowsCells : (0x7F#7).extractLsb' 4 3 = (0x70#7).extractLsb' 4 3 := by decide

theorem meets_PowerCycleLosesEverything : stalled.host.loop ≠ .off := by decide

theorem meets_DataWritesAtPointer_inside : (pointed 3#3 126#7).PortFree ∧ (pointed 3#3 126#7).Serves ∧
    (pointed 3#3 126#7).sink.phase = .ready ∧ (pointed 3#3 126#7).sink.pointer = some (3#3, 126#7) ∧
    (126#7).toNat < 127 :=
  ⟨rfl, ⟨rfl, rfl⟩, rfl, rfl, by decide⟩

theorem meets_DataWritesAtPointer_last : (pointed 7#3 127#7).PortFree ∧ (pointed 7#3 127#7).Serves ∧
    (pointed 7#3 127#7).sink.phase = .ready ∧ (pointed 7#3 127#7).sink.pointer = some (7#3, 127#7) ∧
    (127#7).toNat = 127 :=
  ⟨rfl, ⟨rfl, rfl⟩, rfl, rfl, by decide⟩

theorem meets_BrokenDeviceStaysBroken :
    let s : State := { quiet with sink := Sink.brokenSink }
    s.sink.phase = .broken ∧ step s = .next s :=
  ⟨rfl, rfl⟩

theorem meets_PollEdgeReportsPressEdge :
    (1#2).toNat < Config.nBtn ∧ (scripted [true, false] []).PortFree ∧ (scripted [true, false] []).TransportIdle ∧
    (scripted [true, false] []).env.buttons = true :: [false] :=
  ⟨nBtn_ge_two, rfl, rfl, rfl⟩

theorem meets_SetSettleWritesSettle : State.reset.PortFree := rfl

theorem meets_NewSettleAppliesToNextEdge : (1#2).toNat < Config.nBtn ∧ serving.PortFree := ⟨nBtn_ge_two, rfl⟩

theorem meets_EachPressReportedOnce : (0#2).toNat < Config.nBtn ∧ (scripted [false, true, true, false, true] []).PortFree ∧
    (scripted [false, true, true, false, true] []).env.buttons = [false, true, true, false] ++ [true] :=
  ⟨Nat.lt_of_lt_of_le (by decide) nBtn_ge_two, rfl, rfl⟩

theorem meets_ButtonsAreIndependent :
    let t : State := { scripted [true] [] with inp := (scripted [true] []).inp.setPrev 0#2 true }
    (1#2).toNat < Config.nBtn ∧ (scripted [true, false] []).PortFree ∧ t.PortFree ∧
    (scripted [true, false] []).inp.getPrev 1#2 = t.inp.getPrev 1#2 ∧
    (scripted [true, false] []).env.buttons = true :: [false] ∧ t.env.buttons = true :: [] :=
  ⟨nBtn_ge_two, rfl, rfl, rfl, rfl, rfl⟩

theorem meets_ButtonHeldAtResetIsAnEdge :
    (1#2).toNat < Config.nBtn ∧ (scripted [Config.btnActiveLevel 1#2, true] []).PortFree ∧
    (scripted [Config.btnActiveLevel 1#2, true] []).inp = State.reset.inp ∧
    (scripted [Config.btnActiveLevel 1#2, true] []).env.buttons = Config.btnActiveLevel 1#2 :: [true] :=
  ⟨nBtn_ge_two, rfl, rfl, rfl⟩

theorem meets_EveryRegisterHasOneWriter : ∃ t, exec (.write 0x00#8) serving = .next t := ⟨_, rfl⟩

theorem meets_EveryRegisterHasOneWriter_still_shifter : quiet.PortFree ∧ quiet.shifterActive = false ∧
    quiet.spi.txe = true ∧ ∃ t, exec .reset quiet = .next t :=
  ⟨rfl, rfl, rfl, _, rfl⟩

theorem meets_EveryRegisterHasOneWriter_unread : ∃ t, exec .reset
    { serving with spi := { serving.spi with rxne := true } } = .next t ∧ t.spi.rxne = true :=
  ⟨_, rfl, rfl⟩

theorem meets_EveryRegisterHasOneWriter_busy : waiting.seq.opBusy = true ∧ exec .reset waiting = .next waiting :=
  ⟨rfl, rfl⟩

theorem meets_StepKeepsMemoryCanonical : MemoryInv (pointed 3#3 1#7) ∧
    step (pointed 3#3 1#7) = .next (pointed 3#3 1#7) :=
  ⟨by simp [MemoryInv, Memory.wf, pointed], rfl⟩

theorem meets_StepKeepsSinkKnowledge : SinkInv (pointed 3#3 1#7) ∧
    step (pointed 3#3 1#7) = .next (pointed 3#3 1#7) :=
  ⟨by simp [SinkInv, pointed], rfl⟩

theorem meets_StepKeepsTransportInvariant : TransportInv (shifting 8#4 false) ∧
    ∃ t, step (shifting 8#4 false) = .next t :=
  ⟨by simp [TransportInv, shifting, serving, SpiCfg.fixed], _, rfl⟩

theorem meets_StepKeepsLineLatches : LinesInv waiting ∧ step waiting = .next waiting :=
  ⟨⟨by simp [waiting], fun _ => ⟨readSteps, rfl, rfl, rfl⟩⟩, rfl⟩

theorem meets_BlockResetRestartsReferenceHost : (looping .downEdge serving).host.loop ≠ .off ∧
    (looping .downEdge serving).RunsAfterReset ∧ stalled.host.loop ≠ .off ∧ stalled.RunsAfterReset :=
  ⟨by decide, .inl rfl, by decide, .inr rfl⟩

/-- `serving` with an edge recorded for every button, the Control Loop at `p` in mode `m`. -/
def edged (p : LoopPhase) (m : DisplayMode) (blink : Bool) : State :=
  { serving with host := { HostAgent.reset with
      loop := p, mode := m, blinkEn := blink, eMode := true, eUp := true, eDown := true } }

/-- For each place of the iteration; the free port and the empty queue are the same in all. -/
theorem meets_ControlLoopActs (p : LoopPhase) (m : DisplayMode) (b : Bool) :
    (edged p m b).PortFree ∧ (edged p m b).host.queue = [] ∧ (edged p m b).host.loop = p ∧
    (edged p m b).host.mode = m ∧ (edged p m b).host.blinkEn = b ∧ (edged p m b).host.eUp = true ∧
    (looping p serving).PortFree ∧ (looping p serving).host.queue = [] ∧ (looping p serving).host.loop = p ∧
    (looping p serving).host.eUp = false :=
  ⟨rfl, rfl, rfl, rfl, rfl, rfl, rfl, rfl, rfl, rfl⟩

theorem meets_StepKeepsBlinkDelayBounds : DelayInv (looping .downEdge serving) ∧
    ∃ t, step (looping .downEdge serving) = .next t := by
  refine ⟨?_, _, rfl⟩
  have h := Nat.mod_lt Config.delayMinChoice (show 0 < 250000 by decide)
  simp only [DelayInv, Config.delayMin, looping, serving, quiet, State.reset, HostAgent.reset, Config.delayInit,
    Config.delayMax]
  omega

end Sys2Proof.Tests
end

/-! ## What the shifter keeps, the sequencer keeps: properties of the transport's registers

A property that speaks of the transport and of the wedge alone and that the shifter's rules keep is kept by every step of
the sequencer but the three that write the transport's registers: a load, a byte taken, the configuration. -/

namespace Sys2Proof.Machine

/-- A property of the transport's registers and the wedge that every enabled step of the shifter keeps. -/
structure ShifterKeeps (P : State → Prop) : Prop where
  congr : ∀ {s t : State}, P s → t.spi = s.spi → t.env.wedge = s.env.wedge → P t
  step : ∀ s : State, s.shifterActive = true → P s → P s.shifterStep

/-- The steps of the sequencer that write registers of the transport (R101, R102, R104). -/
def SeqStep.writesTransport : SeqStep → Bool
  | .load _ => true
  | .takeByte => true
  | .configure => true
  | .wait _ => false
  | .driveCs _ => false
  | .driveDc _ => false
  | .driveRst _ => false
  | .resetHold => false
  | .clearPage => false
  | .incPage => false
  | .clearCol => false
  | .incCol => false
  | .clearIdx => false
  | .incIdx => false
  | .poll => false
  | .writeSettle => false

/-- A wait ends, or does not, in the state the shifter has reached. -/
theorem waitUntil_state (c : WaitCond) (s : State) : (s.waitUntil c).state = s.shiftUntil c waitFuel := by
  unfold State.waitUntil
  split <;> rfl

/-- A poll touches the transport at most by the turn of the shifter before its settle delay. -/
theorem pollButton_transport (i : BitVec 2) (s : State) :
    ∃ u v : State, u.spi = s.spi ∧ u.env.wedge = s.env.wedge ∧ (v = u ∨ v = u.shifterTurn) ∧
      (s.pollButton i).spi = v.spi ∧ (s.pollButton i).env.wedge = v.env.wedge := by
  simp only [State.pollButton]
  split
  · refine ⟨_, _, ?_, ?_, .inr rfl, rfl, rfl⟩
    · exact s.afterButton_spi
    · exact s.afterButton_wedge
  · exact ⟨_, _, s.afterButton_spi, s.afterButton_wedge, .inl rfl, rfl, rfl⟩

namespace ShifterKeeps

/-- A property of the transport's registers alone. -/
theorem of_transport {P : Transport → Prop}
    (step : ∀ s : State, s.shifterActive = true → P s.spi → P s.shifterStep.spi) : ShifterKeeps (fun s => P s.spi) where
  congr := fun h hs _ => hs ▸ h
  step := step

variable {P : State → Prop}

theorem many (k : ShifterKeeps P) (n : Nat) {s : State} (h : P s) : P (s.shifterRun n) := by
  induction n generalizing s with
  | zero => exact h
  | succ n ih =>
    simp only [State.shifterRun]
    split
    · exact ih (k.step s (by assumption) h)
    · exact h

theorem turn (k : ShifterKeeps P) {s : State} (h : P s) : P s.shifterTurn := by
  unfold State.shifterTurn
  split
  · exact k.many _ (k.congr h s.afterPace_spi s.afterPace_wedge)
  · exact h

theorem waiting (k : ShifterKeeps P) (c : WaitCond) (n : Nat) {s : State} (h : P s) : P (s.shiftUntil c n) := by
  induction n generalizing s with
  | zero => exact h
  | succ n ih =>
    simp only [State.shiftUntil]
    split
    · exact h
    · split
      · exact ih (k.step s (by assumption) h)
      · exact h

theorem poll (k : ShifterKeeps P) (i : BitVec 2) {s : State} (h : P s) : P (s.pollButton i) := by
  obtain ⟨u, v, hspi, hwedge, hv, hps, hpw⟩ := pollButton_transport i s
  have hu : P u := k.congr h hspi hwedge
  refine k.congr ?_ hps hpw
  obtain rfl | rfl := hv
  · exact hu
  · exact k.turn hu

/-- A step of the sequencer that does not write the transport keeps what the shifter keeps: it touches the transport only
by the shifter's moves before or inside it. -/
theorem run (k : ShifterKeeps P) {a : SeqStep} (ha : a.writesTransport = false) {s : State} (h : P s) :
    P (a.run s).state := by
  have visible : ∀ f : State → State, (∀ u, (f u).spi = u.spi) → (∀ u, (f u).env.wedge = u.env.wedge) →
      P (f s.shifterTurn) := fun f hs hw => k.congr (k.turn h) (hs _) (hw _)
  cases a with
  | wait c =>
    show P (s.waitUntil c).state
    rw [waitUntil_state]
    exact k.waiting c waitFuel h
  | driveCs v => exact visible (·.driveCs v) (fun _ => rfl) (fun _ => rfl)
  | driveDc v => exact visible (·.driveDc v) (fun _ => rfl) (fun _ => rfl)
  | driveRst v => exact visible (·.driveRst v) (fun _ => rfl) (fun _ => rfl)
  | resetHold => exact visible (·.delay .resetHold Config.resetHold) (fun _ => rfl) (fun _ => rfl)
  | poll => exact k.poll _ (k.turn h)
  | load src => cases ha
  | takeByte => cases ha
  | configure => cases ha
  | clearPage => exact k.congr h rfl rfl
  | incPage => exact k.congr h rfl rfl
  | clearCol => exact k.congr h rfl rfl
  | incCol => exact k.congr h rfl rfl
  | clearIdx => exact k.congr h rfl rfl
  | incIdx => exact k.congr h rfl rfl
  | writeSettle => exact k.congr h rfl rfl

end ShifterKeeps

/-! ### The transport's invariant -/

/-- The Control Loop's action changes the host alone (R180). -/
theorem loopStep_eq (s : State) : s.loopStep = { s with host := s.loopStep.host } := by
  unfold State.loopStep
  cases s.host.loop <;> rfl

/-- All that an idle step can do: an enabled step of the shifter, or something of the host's own (R5, R208). -/
theorem idleStep_cases (s : State) :
    (s.shifterActive = true ∧ s.idleStep = s.shifterStep) ∨ ∃ h, s.idleStep = { s with host := h } := by
  unfold State.idleStep
  split
  · split
    · exact .inl ⟨by assumption, rfl⟩
    · exact .inr ⟨s.host, rfl⟩
  all_goals exact .inr ⟨_, loopStep_eq s⟩

theorem shifterTrail_sck (s : State) : s.shifterTrail.spi.sck = true := by
  simp only [State.shifterTrail, State.byteComplete]
  split <;> (try split) <;> simp

/-- One bit less is still at most eight. -/
theorem bitcnt_sub_one_le {n : BitVec 4} (h0 : n ≠ 0#4) (h : n ≤ 8#4) : n - 1#4 ≤ 8#4 := by
  revert n; decide

/-- On an enabled transport the clause on a transport not enabled is void. -/
theorem transportInv_of_enabled {s : State} (hcfg : s.spi.cfg = SpiCfg.fixed) (hsck : s.spi.sck = !s.spi.half)
    (hle : s.spi.bitcnt ≤ 8#4) (hhalf : s.spi.half = true → s.spi.bitcnt ≠ 0#4) : TransportInv s :=
  ⟨fun _ => ⟨hcfg, hsck⟩, fun hoff => absurd hoff (by simp [hcfg, SpiCfg.fixed]), hle, hhalf⟩

/-- The shifter's four rules keep the transport's invariant (R105 to R109). -/
theorem shifterStep_transportInv {s : State} (ha : s.shifterActive = true) (h : TransportInv s) :
    TransportInv s.shifterStep := by
  obtain ⟨hon, hoff, hle, hhalf⟩ := h
  simp only [State.shifterActive, Bool.and_eq_true, Bool.or_eq_true] at ha
  unfold State.shifterStep
  split
  · rename_i hl
    simp only [Transport.canLoad, Bool.and_eq_true, beq_iff_eq] at hl
    obtain ⟨⟨hen, hbit⟩, -⟩ := hl
    have hh : s.spi.half = false := by simpa [hbit] using hhalf
    obtain ⟨hcfg, hsck⟩ := hon hen
    exact transportInv_of_enabled (by simpa using hcfg) (by simpa [hh] using hsck) (by simp) (by simp)
  · rename_i hl
    have hbit : s.spi.bitcnt ≠ 0#4 := by
      simp only [hl, Transport.canLead, Transport.canTrail, Bool.and_eq_true, bne_iff_ne] at ha
      rcases ha.1 with (h | h) | h
      · simp at h
      · exact h.1
      · exact h.1
    have hen : s.spi.cfg.spiEn = true := by
      cases he : s.spi.cfg.spiEn with
      | true => rfl
      | false => exact absurd (hoff he) hbit
    obtain ⟨hcfg, -⟩ := hon hen
    split
    · exact transportInv_of_enabled (by simpa using hcfg) (by simp) (by simpa using hle) (by simpa using hbit)
    · exact transportInv_of_enabled (by simpa [(shifterTrail_byShifter s).cfg] using hcfg)
        (by simp [shifterTrail_sck, shifterTrail_half])
        (by simpa [shifterTrail_bitcnt] using bitcnt_sub_one_le hbit hle) (by simp [shifterTrail_half])

theorem shifterKeeps_transportInv : ShifterKeeps TransportInv where
  congr := by intro s t h hs _; unfold TransportInv at *; rw [hs]; exact h
  step := fun _ ha h => shifterStep_transportInv ha h

theorem configureSpi_transportInv (s : State) : TransportInv s.configureSpi :=
  transportInv_of_enabled rfl rfl (by simp) (by simp)

/-- The sequencer keeps the transport's invariant: a load and a byte taken leave the registers it speaks of, and the
configuration meets it whatever was there before. -/
theorem seqKeeps_transportInv : SeqKeeps TransportInv where
  run := by
    intro a s h
    have turn : TransportInv s.shifterTurn := shifterKeeps_transportInv.turn h
    cases hw : a.writesTransport with
    | false => exact shifterKeeps_transportInv.run hw h
    | true =>
      cases a with
      | load src => exact turn
      | takeByte => exact turn
      | configure => exact configureSpi_transportInv s
      | _ => cases hw
  tick := fun _ h => h
  accept := fun _ _ h => h
  complete := fun _ h => h

theorem idleStep_transportInv {s : State} (h : TransportInv s) : TransportInv s.idleStep := by
  rcases idleStep_cases s with ⟨ha, hs⟩ | ⟨host, hs⟩ <;> rw [hs]
  · exact shifterStep_transportInv ha h
  · exact h

/-- Settles O55: the shifter's rules, the sequencer and an idle step each keep the transport's invariant. -/
theorem stepKeepsTransportInvariant : Obligations.StepKeepsTransportInvariant := by
  intro s t h hs
  exact seqKeeps_transportInv.step (fun _ _ h => h) (fun _ h => idleStep_transportInv h) h hs

end Sys2Proof.Machine

/-! ## The pseudocode of an operation, and what one step of it does to the latches and to the sequencer -/

namespace Sys2Proof.Machine

/-- The steps of an operation's pseudocode (R93): what its opcode stands for, by `stepsOf_encode`. -/
def pseudocode : Instr → List SeqStep
  | .spiInit => spiInitSteps
  | .write _ => writeSteps
  | .read => readSteps
  | .reset => resetSteps
  | .command _ => commandSteps
  | .data _ => dataSteps
  | .init => initSteps
  | .clear => clearSteps
  | .selectPage _ _ => selectPageSteps
  | .render _ => renderSteps
  | .pollEdge _ => pollEdgeSteps
  | .setSettle _ => setSettleSteps

theorem stepsOf_encode (i : Instr) : stepsOf (opcodeOf (encode i)) = some (pseudocode i) := by
  cases i <;> simp only [encode, opcodeOf_opWord] <;> rfl

/-- An operation that answers a next state has run its pseudocode. -/
theorem exec_next_pseudocode {i : Instr} {s t : State} (h : exec i s = .next t) :
    t = operation (encode i) (pseudocode i) s := by
  obtain ⟨steps, hs, rfl⟩ := exec_next h
  rw [stepsOf_encode, Option.some.injEq] at hs
  rw [hs]

/-- Whatever opcode has steps, they are the pseudocode of some operation (R81). -/
theorem stepsOf_pseudocode {opc : BitVec 8} {steps : List SeqStep} (h : stepsOf opc = some steps) :
    ∃ i, pseudocode i = steps := by
  unfold stepsOf at h
  have row : ∀ i, some (pseudocode i) = some steps → ∃ i, pseudocode i = steps := fun i h => ⟨i, Option.some.inj h⟩
  iterate 12
    rcases ite_eq_iff.mp h with ⟨-, h⟩ | ⟨-, h⟩
    swap
  exacts [(nomatch h), row (.setSettle 0) h, row (.pollEdge 0) h, row (.render false) h, row (.selectPage 0 0) h,
    row .clear h, row .init h, row (.data 0) h, row (.command 0) h, row .reset h, row .read h, row (.write 0) h,
    row .spiInit h]

/-- What a step drives of the framer latches (R27 to R29), by `run_lines`. -/
def SeqStep.drive : SeqStep → Lines → Lines
  | .driveCs v, l => { l with cs := v }
  | .driveDc v, l => { l with dc := v }
  | .driveRst v, l => { l with rst := v }
  | .wait _, l => l
  | .load _, l => l
  | .takeByte, l => l
  | .resetHold, l => l
  | .configure, l => l
  | .clearPage, l => l
  | .incPage, l => l
  | .clearCol, l => l
  | .incCol, l => l
  | .clearIdx, l => l
  | .incIdx, l => l
  | .poll, l => l
  | .writeSettle, l => l

theorem run_lines (a : SeqStep) (s : State) : (a.run s).state.lines = a.drive s.lines := by
  have turn : s.shifterTurn.lines = s.lines := (shifterTurn_byShifter s).lines
  cases a with
  | wait c =>
    show (s.waitUntil c).state.lines = s.lines
    rw [waitUntil_state]
    exact (shiftUntil_byShifter c waitFuel s).lines
  | poll =>
    obtain ⟨l, hp⟩ := pollButton_polled s.seq.oprButton s
    exact hp.lines
  | driveCs v | driveDc v | driveRst v => simp [SeqStep.run, Progress.state, SeqStep.drive, turn]
  | load _ | takeByte | resetHold => exact turn
  | configure | clearPage | incPage | clearCol | incCol | clearIdx | incIdx | writeSettle => rfl

/-- From `s` to `t` the sequencer stays with its operation and at its position: only its counters may differ (R30). -/
structure SameOperation (s t : State) : Prop where
  busy : t.seq.opBusy = s.seq.opBusy
  opc : t.seq.opc = s.seq.opc
  opr : t.seq.opr = s.seq.opr
  pos : t.seq.pos = s.seq.pos

theorem SameOperation.of_seq {s t : State} (h : t.seq = s.seq) : SameOperation s t :=
  ⟨by rw [h], by rw [h], by rw [h], by rw [h]⟩

theorem run_sameOperation (a : SeqStep) (s : State) : SameOperation s (a.run s).state := by
  have turn : SameOperation s s.shifterTurn := .of_seq (shifterTurn_byShifter s).seq
  cases a with
  | wait c =>
    show SameOperation s (s.waitUntil c).state
    rw [waitUntil_state]
    exact .of_seq (shiftUntil_byShifter c waitFuel s).seq
  | poll =>
    obtain ⟨l, hp⟩ := pollButton_polled s.seq.oprButton s
    exact .of_seq hp.seq
  | driveCs _ | driveDc _ | driveRst _ | load _ | takeByte | resetHold => exact .of_seq (shifterTurn_byShifter s).seq
  | configure | clearPage | incPage | clearCol | incCol | clearIdx | incIdx | writeSettle => exact ⟨rfl, rfl, rfl, rfl⟩

/-! ## The line latches -/

/-- `csAfter` and `rstAfter` of one step more are what that step makes of the latches. -/
theorem drive_cs {a : SeqStep} {l : Lines} {taken : List SeqStep} (h : l.cs = csAfter taken) :
    (a.drive l).cs = csAfter (taken ++ [a]) := by
  unfold csAfter at h ⊢
  rw [List.foldl_append, ← h]
  cases a <;> rfl

theorem drive_rst {a : SeqStep} {l : Lines} {taken : List SeqStep} (h : l.rst = rstAfter taken) :
    (a.drive l).rst = rstAfter (taken ++ [a]) := by
  unfold rstAfter at h ⊢
  rw [List.foldl_append, ← h]
  cases a <;> rfl

/-- A list of steps that begins and ends with chip-select deasserted and the device reset line high. -/
structure LeavesAtRest (l : List SeqStep) : Prop where
  cs : csAfter l = .deasserted
  rst : rstAfter l = .high

theorem LeavesAtRest.append {l₁ l₂ : List SeqStep} (h₁ : LeavesAtRest l₁) (h₂ : LeavesAtRest l₂) :
    LeavesAtRest (l₁ ++ l₂) where
  cs := by
    have h := h₁.cs
    unfold csAfter at h
    rw [csAfter, List.foldl_append, h]
    exact h₂.cs
  rst := by
    have h := h₁.rst
    unfold rstAfter at h
    rw [rstAfter, List.foldl_append, h]
    exact h₂.rst

theorem LeavesAtRest.repeatSteps {body : List SeqStep} (h : LeavesAtRest body) (n : Nat) :
    LeavesAtRest (repeatSteps n body) := by
  induction n with
  | zero => exact ⟨rfl, rfl⟩
  | succ n ih => exact h.append ih

/-- A frame opens the chip-select window and closes it (R120, R126). -/
theorem frame_leavesAtRest (k : Dc) (src : ByteSrc) : LeavesAtRest (frame k src) := ⟨rfl, rfl⟩

theorem resetPulse_leavesAtRest : LeavesAtRest resetPulse := ⟨rfl, rfl⟩

theorem screenSteps_leavesAtRest (src : ByteSrc) : LeavesAtRest (screenSteps src) := by
  have columns : LeavesAtRest (columnSteps src) := ⟨rfl, rfl⟩
  have select : LeavesAtRest selectCountedPage := ⟨rfl, rfl⟩
  have page : LeavesAtRest (pageSteps src) :=
    ((select.append ⟨rfl, rfl⟩).append (columns.repeatSteps _)).append ⟨rfl, rfl⟩
  exact LeavesAtRest.append ⟨rfl, rfl⟩ (page.repeatSteps _)

/-- Every operation leaves the lines at rest (R126, R123). -/
theorem pseudocode_leavesAtRest (i : Instr) : LeavesAtRest (pseudocode i) := by
  cases i with
  | command b => exact frame_leavesAtRest .command .operand
  | data b => exact frame_leavesAtRest .data .operand
  | selectPage page column => exact ⟨rfl, rfl⟩
  | reset => exact resetPulse_leavesAtRest
  | init =>
    have body : LeavesAtRest (frame .command .initEntry ++ [.incIdx]) := ⟨rfl, rfl⟩
    exact (resetPulse_leavesAtRest.append ⟨rfl, rfl⟩).append (body.repeatSteps _)
  | clear => exact screenSteps_leavesAtRest _
  | render inv => exact screenSteps_leavesAtRest _
  | spiInit | write _ | read | pollEdge _ | setSettle _ => exact ⟨rfl, rfl⟩

/-- The block is inside an operation with steps `steps`, and the lines are as the steps up to its position drove them. -/
structure Inside (steps : List SeqStep) (s : State) : Prop where
  busy : s.seq.opBusy = true
  op : stepsOf s.seq.opc = some steps
  cs : s.lines.cs = csAfter (steps.take s.seq.pos)
  rst : s.lines.rst = rstAfter (steps.take s.seq.pos)

theorem Inside.linesInv {steps : List SeqStep} {s : State} (h : Inside steps s) : LinesInv s :=
  ⟨fun hf => absurd (h.busy.symm.trans hf) (by simp), fun _ => ⟨steps, h.op, h.cs, h.rst⟩⟩

/-- The same operation at the same position with the same lines. -/
theorem Inside.congr {steps : List SeqStep} {s t : State} (h : Inside steps s) (ho : SameOperation s t)
    (hl : t.lines = s.lines) : Inside steps t where
  busy := ho.busy.trans h.busy
  op := by rw [ho.opc]; exact h.op
  cs := by rw [ho.pos, hl]; exact h.cs
  rst := by rw [ho.pos, hl]; exact h.rst

/-- After the step at its position the block is inside its operation one step further. -/
theorem Inside.next {steps rest : List SeqStep} {a : SeqStep} {s : State} (h : Inside steps s)
    (hd : steps.drop s.seq.pos = a :: rest) : Inside steps (a.run s).state.tickPos := by
  have ho := run_sameOperation a s
  have htake : steps.take (s.seq.pos + 1) = steps.take s.seq.pos ++ [a] := by
    have ha : steps[s.seq.pos]? = some a := by
      rw [← List.head?_drop, hd]
      rfl
    rw [List.take_add_one, ha]
    rfl
  constructor
  · exact ho.busy.trans h.busy
  · rw [State.tickPos_seq, ho.opc]
    exact h.op
  · rw [State.tickPos_lines, State.tickPos_seq, run_lines, ho.pos, htake]
    exact drive_cs h.cs
  · rw [State.tickPos_lines, State.tickPos_seq, run_lines, ho.pos, htake]
    exact drive_rst h.rst

/-- Behind its last step an operation completes with the lines at rest. -/
theorem Inside.complete {steps : List SeqStep} {s : State} (h : Inside steps s) (hd : steps.drop s.seq.pos = []) :
    LinesInv s.complete := by
  have htake : steps.take s.seq.pos = steps := List.take_of_length_le (List.drop_eq_nil_iff.mp hd)
  obtain ⟨i, hi⟩ := stepsOf_pseudocode h.op
  have hrest := pseudocode_leavesAtRest i
  rw [hi] at hrest
  have hcs : s.lines.cs = .deasserted := by rw [h.cs, htake, hrest.cs]
  have hrst : s.lines.rst = .high := by rw [h.rst, htake, hrest.rst]
  exact ⟨fun _ => ⟨hcs, hrst⟩, fun hb => by simp at hb⟩

/-- The steps still to take, taken as far as the waits allow, keep the lines as their invariant says. -/
theorem Inside.advance {steps : List SeqStep} (rest : List SeqStep) {s : State} (h : Inside steps s)
    (hd : steps.drop s.seq.pos = rest) : LinesInv (advance rest s).finish := by
  induction rest generalizing s with
  | nil => exact h.complete hd
  | cons a rest ih =>
    have hnext := h.next hd
    rw [advance_cons]
    cases hr : a.run s with
    | moved t =>
      rw [hr] at hnext
      have hpos : t.seq.pos = s.seq.pos := by simpa [hr, Progress.state] using (run_sameOperation a s).pos
      refine ih hnext ?_
      show steps.drop (t.seq.pos + 1) = rest
      rw [hpos, ← List.drop_drop, hd]
      rfl
    | waits t =>
      have hw : Inside steps t := by
        refine h.congr ?_ ?_
        · simpa [hr, Progress.state] using run_sameOperation a s
        · cases a with
          | wait c => simpa [hr, Progress.state, SeqStep.drive] using run_lines (.wait c) s
          | _ => cases hr
      exact hw.linesInv

/-- An operation accepted on a free port starts inside its pseudocode, at its first step. -/
theorem operation_linesInv {i : Instr} {s : State} (hf : s.PortFree) (h : LinesInv s) :
    LinesInv (operation (encode i) (pseudocode i) s) := by
  obtain ⟨hcs, hrst⟩ := h.1 hf
  rw [operation_of_free hf]
  have hstart : Inside (pseudocode i) (s.acceptWord (encode i)) := ⟨rfl, stepsOf_encode i, hcs, hrst⟩
  exact hstart.advance _ rfl

theorem idleStep_linesInv {s : State} (h : LinesInv s) : LinesInv s.idleStep := by
  rcases idleStep_cases s with ⟨-, hs⟩ | ⟨host, hs⟩ <;> rw [hs]
  · have hb := shifterStep_byShifter s
    unfold LinesInv at h ⊢
    rw [hb.lines, hb.seq]
    exact h
  · exact h

/-- Settles O56: an operation keeps, step by step, that the lines are as its steps up to the position drove them, and the
whole pseudocode of every operation leaves them at rest. -/
theorem stepKeepsLineLatches : Obligations.StepKeepsLineLatches := by
  intro s t h hs
  rcases step_next hs with ⟨hb, steps, hsteps, rfl⟩ | ⟨hf, w, rest, i, -, -, he⟩ | ⟨-, -, rfl⟩
  · obtain ⟨steps', hsteps', hcs, hrst⟩ := h.2 hb
    obtain rfl : steps' = steps := Option.some.inj (hsteps'.symm.trans hsteps)
    exact Inside.advance _ ⟨hb, hsteps, hcs, hrst⟩ rfl
  · rw [exec_next_pseudocode he]
    exact operation_linesInv hf h
  · exact idleStep_linesInv h

end Sys2Proof.Machine

/-! ## Ownership: which step writes a register, and in whose pseudocode the step stands -/

namespace Sys2Proof.Machine

/-- A property kept by every step of a list, by the count of steps and by completion is kept by the list run to its end or
to a wait. -/
theorem finish_keeps {P : State → Prop} {l : List SeqStep} (hrun : ∀ a ∈ l, ∀ s, P s → P (a.run s).state)
    (htick : ∀ s, P s → P s.tickPos) (hcomplete : ∀ s, P s → P s.complete) {s : State} (h : P s) :
    P (advance l s).finish := by
  induction l generalizing s with
  | nil => exact hcomplete s h
  | cons a l ih =>
    have hr := hrun a (by simp) s h
    rw [advance_cons]
    cases ha : a.run s with
    | moved t =>
      rw [ha] at hr
      exact ih (fun b hb => hrun b (by simp [hb])) (htick t hr)
    | waits t =>
      rw [ha] at hr
      exact hr

/-! ### Steps and their owners -/

/-- The operations in whose pseudocode a step stands (R101 to R104, R120, R123, R125, R140, R152, R162, R164). -/
def SeqStep.PartOf : SeqStep → Instr → Prop
  | .wait _, _ => True
  | .driveCs _, i => i.SendsFrames
  | .driveDc _, i => i.SendsFrames
  | .driveRst _, i => i = .reset ∨ i = .init
  | .load _, i => i.SendsFrames ∨ ∃ b, i = .write b
  | .takeByte, i => i = .read
  | .resetHold, i => i = .reset ∨ i = .init
  | .configure, i => i = .spiInit
  | .clearPage, i => i = .clear ∨ ∃ inv, i = .render inv
  | .incPage, i => i = .clear ∨ ∃ inv, i = .render inv
  | .clearCol, i => i = .clear ∨ ∃ inv, i = .render inv
  | .incCol, i => i = .clear ∨ ∃ inv, i = .render inv
  | .clearIdx, i => i = .init
  | .incIdx, i => i = .init
  | .poll, i => ∃ b, i = .pollEdge b
  | .writeSettle, i => ∃ n, i = .setSettle n

theorem mem_repeatSteps {a : SeqStep} {n : Nat} {body : List SeqStep} (h : a ∈ repeatSteps n body) : a ∈ body := by
  induction n with
  | zero => cases h
  | succ n ih => exact (List.mem_append.mp h).elim id ih

theorem partOf_of_mem_frame (i : Instr) (hi : i.SendsFrames) (k : Dc) (src : ByteSrc) :
    ∀ a ∈ frame k src, a.PartOf i := by
  simp [frame, SeqStep.PartOf, hi]

theorem partOf_of_mem_screenSteps {i : Instr} (hi : i = .clear ∨ ∃ inv, i = .render inv) (src : ByteSrc) :
    ∀ a ∈ screenSteps src, a.PartOf i := by
  have hs : i.SendsFrames := by obtain rfl | ⟨inv, rfl⟩ := hi <;> trivial
  have select : ∀ a ∈ selectCountedPage, a.PartOf i := by
    simp only [selectCountedPage, List.forall_mem_append]
    exact ⟨⟨partOf_of_mem_frame i hs _ _, partOf_of_mem_frame i hs _ _⟩, partOf_of_mem_frame i hs _ _⟩
  have columns : ∀ a ∈ columnSteps src, a.PartOf i := by
    simp only [columnSteps, List.forall_mem_append, List.forall_mem_singleton]
    exact ⟨partOf_of_mem_frame i hs _ _, hi⟩
  have page : ∀ a ∈ pageSteps src, a.PartOf i := by
    simp only [pageSteps, List.forall_mem_append, List.forall_mem_singleton]
    exact ⟨⟨⟨select, hi⟩, fun a ha => columns a (mem_repeatSteps ha)⟩, hi⟩
  simp only [screenSteps, List.forall_mem_append, List.forall_mem_singleton]
  exact ⟨hi, fun a ha => page a (mem_repeatSteps ha)⟩

/-- A step stands only in the pseudocode of its owners. -/
theorem partOf_of_mem (i : Instr) : ∀ a ∈ pseudocode i, a.PartOf i := by
  cases i with
  | command b => exact partOf_of_mem_frame (.command b) trivial _ _
  | data b => exact partOf_of_mem_frame (.data b) trivial _ _
  | selectPage page column =>
    simp only [pseudocode, selectPageSteps, List.forall_mem_append]
    have sent := partOf_of_mem_frame (.selectPage page column) trivial .command
    exact ⟨⟨sent _, sent _⟩, sent _⟩
  | init =>
    have body : ∀ a ∈ frame .command .initEntry ++ [.incIdx], a.PartOf .init := by
      simp only [List.forall_mem_append, List.forall_mem_singleton]
      exact ⟨partOf_of_mem_frame .init trivial _ _, rfl⟩
    simp only [pseudocode, initSteps, List.forall_mem_append, List.forall_mem_singleton]
    exact ⟨⟨by simp [resetPulse, SeqStep.PartOf], rfl⟩, fun a ha => body a (mem_repeatSteps ha)⟩
  | clear => exact partOf_of_mem_screenSteps (.inl rfl) _
  | render inv => exact partOf_of_mem_screenSteps (.inr ⟨inv, rfl⟩) _
  | reset => simp [pseudocode, resetSteps, resetPulse, SeqStep.PartOf]
  | spiInit => simp [pseudocode, spiInitSteps, SeqStep.PartOf]
  | write b => simp [pseudocode, writeSteps, transportWrite, SeqStep.PartOf]
  | read => simp [pseudocode, readSteps, SeqStep.PartOf]
  | pollEdge b => simp [pseudocode, pollEdgeSteps, SeqStep.PartOf]
  | setSettle n => simp [pseudocode, setSettleSteps, SeqStep.PartOf]

/-! ### What an operation leaves to the other writers -/

/-- From `s` to `t` no register has changed whose writer is another operation than `i` (R44). -/
structure OnlyOwn (i : Instr) (s t : State) : Prop where
  settle : (∀ n, i ≠ .setSettle n) → t.inp.settle = s.inp.settle
  poll : (∀ b, i ≠ .pollEdge b) → t.inp.prev = s.inp.prev ∧ t.res.resEdge = s.res.resEdge
  cfg : i ≠ .spiInit → t.spi.cfg = s.spi.cfg
  resByte : i ≠ .read → t.res.resByte = s.res.resByte
  rst : i ≠ .reset → i ≠ .init → t.lines.rst = s.lines.rst
  frame : ¬ i.SendsFrames → t.lines.cs = s.lines.cs ∧ t.lines.dc = s.lines.dc
  screen : i ≠ .clear → (∀ inv, i ≠ .render inv) → t.seq.pageCnt = s.seq.pageCnt ∧ t.seq.colCnt = s.seq.colCnt
  initIdx : i ≠ .init → t.seq.initIdx = s.seq.initIdx
  txbuf : ¬ i.SendsFrames → (∀ b, i ≠ .write b) →
    t.spi.txbuf = s.spi.txbuf ∧ (s.spi.txe = true → t.spi.txe = true)
  rxne : i ≠ .read → i ≠ .spiInit → s.spi.rxne = true → t.spi.rxne = true
  host : t.host = s.host

theorem OnlyOwn.refl (i : Instr) (s : State) : OnlyOwn i s s :=
  ⟨fun _ => rfl, fun _ => ⟨rfl, rfl⟩, fun _ => rfl, fun _ => rfl, fun _ _ => rfl, fun _ => ⟨rfl, rfl⟩,
    fun _ _ => ⟨rfl, rfl⟩, fun _ => rfl, fun _ _ => ⟨rfl, id⟩, fun _ _ => id, rfl⟩

theorem OnlyOwn.trans {i : Instr} {s t u : State} (h : OnlyOwn i s t) (g : OnlyOwn i t u) : OnlyOwn i s u where
  settle hi := (g.settle hi).trans (h.settle hi)
  poll hi := ⟨(g.poll hi).1.trans (h.poll hi).1, (g.poll hi).2.trans (h.poll hi).2⟩
  cfg hi := (g.cfg hi).trans (h.cfg hi)
  resByte hi := (g.resByte hi).trans (h.resByte hi)
  rst hr hi := (g.rst hr hi).trans (h.rst hr hi)
  frame hi := ⟨(g.frame hi).1.trans (h.frame hi).1, (g.frame hi).2.trans (h.frame hi).2⟩
  screen hc hr := ⟨(g.screen hc hr).1.trans (h.screen hc hr).1, (g.screen hc hr).2.trans (h.screen hc hr).2⟩
  initIdx hi := (g.initIdx hi).trans (h.initIdx hi)
  txbuf hf hw := ⟨(g.txbuf hf hw).1.trans (h.txbuf hf hw).1, (g.txbuf hf hw).2 ∘ (h.txbuf hf hw).2⟩
  rxne hr hi := g.rxne hr hi ∘ h.rxne hr hi
  host := g.host.trans h.host

/-- The shifter sets TXE and never clears it (R105). -/
theorem shifterKeeps_txe : ShifterKeeps (fun s => s.spi.txe = true) :=
  .of_transport (P := fun t => t.txe = true) fun s _ h => by
    unfold State.shifterStep
    split
    · simp
    · split
      · simpa using h
      · simpa [shifterTrail_txe] using h

/-- The shifter sets RXNE and never clears it (R108). -/
theorem shifterKeeps_rxne : ShifterKeeps (fun s => s.spi.rxne = true) :=
  .of_transport (P := fun t => t.rxne = true) fun s _ => (shifterStep_byShifter s).rxne

/-- The shifter reads TXBUF and does not write it (R105). -/
theorem shifterKeeps_txbuf (b : Byte) : ShifterKeeps (fun s => s.spi.txbuf = b) :=
  .of_transport (P := fun t => t.txbuf = b) fun s _ h => (shifterStep_byShifter s).txbuf.trans h

/-- The shifter is no operation's, and writes no register that an operation has for its own. -/
theorem ByShifter.onlyOwn {s t : State} (i : Instr) (h : ByShifter s t) (htxe : s.spi.txe = true → t.spi.txe = true) :
    OnlyOwn i s t where
  settle _ := by rw [h.inp]
  poll _ := by rw [h.inp, h.res]; exact ⟨rfl, rfl⟩
  cfg _ := h.cfg
  resByte _ := by rw [h.res]
  rst _ _ := by rw [h.lines]
  frame _ := by rw [h.lines]; exact ⟨rfl, rfl⟩
  screen _ _ := by rw [h.seq]; exact ⟨rfl, rfl⟩
  initIdx _ := by rw [h.seq]
  txbuf _ _ := ⟨h.txbuf, htxe⟩
  rxne _ _ := h.rxne
  host := h.host

/-- A poll, the turn of the shifter before it included, writes PREV and RES_EDGE alone of the registers with an owner. -/
theorem poll_onlyOwn (b : BitVec 2) (s : State) : OnlyOwn (.pollEdge b) s (SeqStep.poll.run s).state := by
  obtain ⟨l, hp⟩ := pollButton_polled s.seq.oprButton s
  have seq : (SeqStep.poll.run s).state.seq = s.seq := hp.seq
  have lines : (SeqStep.poll.run s).state.lines = s.lines := hp.lines
  constructor
  case settle => exact fun _ => (congrArg Inputs.settle hp.inp).trans (setPrev_settle _ _ _)
  case poll => exact fun h => absurd rfl (h b)
  case cfg => exact fun _ => hp.cfg
  case resByte => exact fun _ => hp.resByte
  case rst => exact fun _ _ => by rw [lines]
  case frame => exact fun _ => by rw [lines]; exact ⟨rfl, rfl⟩
  case screen => exact fun _ _ => by rw [seq]; exact ⟨rfl, rfl⟩
  case initIdx => exact fun _ => by rw [seq]
  case txbuf => exact fun _ _ => ⟨(shifterKeeps_txbuf _).run rfl rfl, shifterKeeps_txe.run rfl⟩
  case rxne => exact fun _ _ => shifterKeeps_rxne.run rfl
  case host => exact hp.host

/-- A step of an operation's pseudocode writes what that operation owns. -/
theorem run_onlyOwn {i : Instr} {a : SeqStep} (ha : a.PartOf i) (s : State) : OnlyOwn i s (a.run s).state := by
  have turn : OnlyOwn i s s.shifterTurn := (shifterTurn_byShifter s).onlyOwn i shifterKeeps_txe.turn
  cases a with
  | wait c =>
    show OnlyOwn i s (s.waitUntil c).state
    rw [waitUntil_state]
    exact (shiftUntil_byShifter c waitFuel s).onlyOwn i (shifterKeeps_txe.waiting c waitFuel)
  | driveCs v | driveDc v => exact turn.trans { OnlyOwn.refl i _ with frame := fun h => absurd ha h }
  | driveRst v =>
    exact turn.trans { OnlyOwn.refl i _ with rst := fun hr hi => absurd ha (not_or.mpr ⟨hr, hi⟩) }
  | load src =>
    have other (hf : ¬ i.SendsFrames) (hw : ∀ b, i ≠ .write b) : ¬ (i.SendsFrames ∨ ∃ b, i = .write b) :=
      not_or.mpr ⟨hf, not_exists.mpr hw⟩
    exact turn.trans { OnlyOwn.refl i _ with txbuf := fun hf hw => absurd ha (other hf hw) }
  | takeByte =>
    exact turn.trans { OnlyOwn.refl i _ with resByte := fun h => absurd ha h, rxne := fun h => absurd ha h }
  | resetHold => exact turn.trans { OnlyOwn.refl i _ with }
  | configure =>
    exact { OnlyOwn.refl i _ with
      cfg := fun h => absurd ha h
      txbuf := fun _ _ => ⟨rfl, fun _ => rfl⟩
      rxne := fun _ h => absurd ha h }
  | clearPage | incPage | clearCol | incCol =>
    exact { OnlyOwn.refl i _ with
      screen := fun hc hr => absurd ha (not_or.mpr ⟨hc, not_exists.mpr hr⟩) }
  | clearIdx | incIdx => exact { OnlyOwn.refl i _ with initIdx := fun h => absurd ha h }
  | poll =>
    obtain ⟨b, rfl⟩ := ha
    exact poll_onlyOwn b s
  | writeSettle => exact { OnlyOwn.refl i _ with settle := fun h => absurd ha (not_exists.mpr h) }

theorem operation_onlyOwn (i : Instr) (s : State) : OnlyOwn i s (operation (encode i) (pseudocode i) s) := by
  unfold operation
  split
  · exact .refl i s
  · exact finish_keeps (P := OnlyOwn i s) (fun a ha t h => h.trans (run_onlyOwn (partOf_of_mem i a ha) t))
      (fun _ h => h.trans { OnlyOwn.refl i _ with }) (fun _ h => h.trans { OnlyOwn.refl i _ with })
      { OnlyOwn.refl i _ with }

/-! ### The word accepted -/

/-- OPC and OPR hold the accepted word as long as its operation runs and after it (R81). -/
theorem operation_word (i : Instr) {s : State} (hf : s.PortFree) :
    (operation (encode i) (pseudocode i) s).seq.opc = opcodeOf (encode i) ∧
      (operation (encode i) (pseudocode i) s).seq.opr = operandOf (encode i) := by
  rw [operation_of_free hf]
  refine finish_keeps (P := fun t => t.seq.opc = opcodeOf (encode i) ∧ t.seq.opr = operandOf (encode i))
    (fun a _ t h => ?_) (fun _ h => h) (fun _ h => h) ⟨rfl, rfl⟩
  have ho := run_sameOperation a t
  exact ⟨ho.opc.trans h.1, ho.opr.trans h.2⟩

/-! ### The shifter's own registers -/

/-- The shifter's registers in `t` are as in `s`, but for what SPI_INIT assigns and a READ clears (R105 to R108, R101). -/
structure ShifterAtRest (i : Instr) (s t : Transport) : Prop where
  shift : t.shift = s.shift
  rxbuf : t.rxbuf = s.rxbuf
  mosi : t.mosi = s.mosi
  rxne : s.rxne = false → t.rxne = false
  clock : i ≠ .spiInit → t.bitcnt = s.bitcnt ∧ t.half = s.half ∧ t.sck = s.sck ∧ (s.txe = false → t.txe = false)

theorem ShifterAtRest.refl (i : Instr) (s : Transport) : ShifterAtRest i s s :=
  ⟨rfl, rfl, rfl, id, fun _ => ⟨rfl, rfl, rfl, id⟩⟩

/-- A shifter with no step enabled stays so, and leaves the transport as it is, until the transport is written. -/
theorem shifterKeeps_still {s : State} (ha : s.shifterActive = false) :
    ShifterKeeps (fun t => t.spi = s.spi ∧ t.env.wedge = s.env.wedge) where
  congr := fun h hs hw => ⟨hs.trans h.1, hw.trans h.2⟩
  step := by
    intro t hact h
    rw [shifterActive_congr h.1 h.2, ha] at hact
    cases hact

/-- Steps that do not write the transport leave a transport whose shifter has no step enabled as it is. -/
theorem finish_spi_of_still {l : List SeqStep} (hl : ∀ a ∈ l, a.writesTransport = false) {s : State}
    (ha : s.shifterActive = false) : (advance l s).finish.spi = s.spi :=
  (finish_keeps (P := fun t => t.spi = s.spi ∧ t.env.wedge = s.env.wedge)
    (fun a h _ ht => (shifterKeeps_still ha).run (hl a h) ht) (fun _ h => h) (fun _ h => h) ⟨rfl, rfl⟩).1

/-- One wait and one step behind it: with no step of the shifter enabled the wait stands still or lets the step through at
once. -/
theorem finish_spi_wait_then {c : WaitCond} {a : SeqStep} {s : State} (ha : s.shifterActive = false) :
    (advance [.wait c, a] s).finish.spi = s.spi ∨
      (c.holds s = true ∧ (advance [.wait c, a] s).finish.spi = (a.run s.tickPos).state.spi) := by
  rw [advance_cons]
  cases hc : c.holds s with
  | true =>
    refine .inr ⟨rfl, ?_⟩
    rw [SeqStep.run, waitUntil_of_holds hc, Progress.andThen_moved, advance_cons]
    cases a.run s.tickPos <;> rfl
  | false =>
    rw [SeqStep.run, waitUntil_of_stuck hc ha]
    exact .inl rfl

/-- With no step of the shifter enabled an operation that sends no frame leaves the shifter's registers: it has no step of
the sequencer that writes the transport, or one alone, behind a wait. -/
theorem finish_atRest {i : Instr} (hi : ¬ i.SendsFrames) {s : State} (ha : s.shifterActive = false) :
    ShifterAtRest i s.spi (advance (pseudocode i) s).finish.spi := by
  have still (hl : ∀ a ∈ pseudocode i, a.writesTransport = false) :
      ShifterAtRest i s.spi (advance (pseudocode i) s).finish.spi := by
    rw [finish_spi_of_still hl ha]
    exact .refl i _
  have turn : s.tickPos.shifterTurn = s.tickPos := shifterTurn_of_not_active ha
  cases i with
  | spiInit =>
    rcases finish_spi_wait_then (c := .idleIfEnabled) (a := .configure) ha with h | ⟨-, h⟩
    · exact h ▸ .refl _ _
    · exact h ▸ ⟨rfl, rfl, rfl, fun _ => rfl, fun hne => absurd rfl hne⟩
  | write b =>
    rcases finish_spi_wait_then (c := .txe) (a := .load .operand) ha with h | ⟨-, h⟩
    · exact h ▸ .refl _ _
    · have hspi : ((SeqStep.load .operand).run s.tickPos).state.spi =
          { s.spi with txbuf := ByteSrc.operand.value s.tickPos.seq, txe := false } := by
        simp [SeqStep.run, Progress.state, turn]
      rw [hspi] at h
      exact h ▸ ⟨rfl, rfl, rfl, id, fun _ => ⟨rfl, rfl, rfl, fun _ => rfl⟩⟩
  | read =>
    rcases finish_spi_wait_then (c := .rxne) (a := .takeByte) ha with h | ⟨-, h⟩
    · exact h ▸ .refl _ _
    · have hspi : (SeqStep.takeByte.run s.tickPos).state.spi = { s.spi with rxne := false } := by
        simp [SeqStep.run, Progress.state, turn]
      rw [hspi] at h
      exact h ▸ ⟨rfl, rfl, rfl, fun _ => rfl, fun _ => ⟨rfl, rfl, rfl, id⟩⟩
  | reset => exact still (by simp [pseudocode, resetSteps, resetPulse, SeqStep.writesTransport])
  | pollEdge b => exact still (by simp [pseudocode, pollEdgeSteps, SeqStep.writesTransport])
  | setSettle n => exact still (by simp [pseudocode, setSettleSteps, SeqStep.writesTransport])
  | command _ | data _ | init | clear | selectPage _ _ | render _ => exact absurd trivial hi

theorem operation_atRest {i : Instr} (hi : ¬ i.SendsFrames) {s : State} (ha : s.shifterActive = false) :
    ShifterAtRest i s.spi (operation (encode i) (pseudocode i) s).spi := by
  unfold operation
  split
  · exact .refl i _
  · exact finish_atRest hi (s := s.acceptWord (encode i)) ha

/-- Settles O51: every step of a pseudocode writes only registers of the operations it stands in, and without a step of the
shifter the transport changes only where the sequencer writes it. -/
theorem everyRegisterHasOneWriter : Obligations.EveryRegisterHasOneWriter := by
  intro i s t h
  obtain rfl := exec_next_pseudocode h
  have own := operation_onlyOwn i s
  refine ⟨own.settle, own.poll, own.cfg, own.resByte, own.rst, own.frame, own.screen, own.initIdx, own.txbuf, own.rxne,
    fun ha hi => ?_, fun hf => operation_word i hf, fun hb => operation_of_busy hb, own.host⟩
  have rest := operation_atRest hi ha
  exact ⟨rest.shift, rest.rxbuf, rest.mosi, rest.rxne, rest.clock⟩

end Sys2Proof.Machine

/-! ## Block reset -/

namespace Sys2Proof.Machine

/-- Settles O9: each value of the table of R43 is the value of the field at `State.reset`. -/
theorem resetLeavesStatedValues : Obligations.ResetLeavesStatedValues := by
  have hprev : ∀ i : BitVec 2, State.reset.inp.getPrev i = false := by
    intro i
    simp [Inputs.getPrev, State.reset]
  exact ⟨rfl, rfl, rfl, rfl, rfl, rfl, rfl, rfl, rfl, hprev, rfl⟩

theorem reset_memoryInv : MemoryInv State.reset := ⟨List.Pairwise.nil, fun _ h => nomatch h⟩

theorem reset_sinkInv : SinkInv State.reset :=
  ⟨fun _ => ⟨rfl, rfl, rfl, rfl⟩, (nomatch ·), fun _ h => nomatch h⟩

theorem reset_transportInv : TransportInv State.reset :=
  ⟨(nomatch ·), fun _ => rfl, by decide, (nomatch ·)⟩

theorem reset_linesInv : LinesInv State.reset := ⟨fun _ => ⟨rfl, rfl⟩, (nomatch ·)⟩

/-- DELAY_INIT lies between DELAY_MIN, whatever it is, and DELAY_MAX (R182, R186). -/
theorem reset_delayInv : DelayInv State.reset := by
  have hmax : Config.delayInit ≤ Config.delayMax := by decide
  exact ⟨delayMin_le, hmax⟩

/-- Settles O52: nothing is known of the device, nothing is shifted, the lines are at rest. -/
theorem resetMeetsInvariants : Obligations.ResetMeetsInvariants :=
  ⟨reset_memoryInv, reset_sinkInv, reset_transportInv, reset_linesInv, reset_delayInv⟩

end Sys2Proof.Machine

/-! ## The sink event by event: what each reaction keeps, and that a step moves the sink by its events alone -/

namespace Sys2Proof.Machine

/-! ### Bytes accepted by a Ready device -/

/-- A command byte of one of the four forms of R69. -/
def ReadyCommand (b : Byte) : Prop :=
  (0xB0#8 ≤ b ∧ b ≤ 0xB7#8) ∨ b ≤ 0x0F#8 ∨ (0x10#8 ≤ b ∧ b ≤ 0x17#8) ∨ b = 0xAF#8

/-- A command byte of the four forms rewrites the pointer or the `on` flag, never a cell (R69). -/
theorem Sink.command_keeps {b : Byte} (hb : ReadyCommand b) (k : Sink) :
    (Sink.command b k).phase = k.phase ∧ (Sink.command b k).ram = k.ram := by
  unfold Sink.command
  split_ifs with hpage hlo hhi hon
  iterate 4 exact ⟨rfl, rfl⟩
  exact absurd hb (by simp only [ReadyCommand, hpage, hlo, hhi, hon, or_self, not_false_eq_true])

theorem Sink.command_breaks {b : Byte} (hb : ¬ ReadyCommand b) (k : Sink) : Sink.command b k = Sink.brokenSink := by
  simp only [ReadyCommand, not_or] at hb
  obtain ⟨hpage, hlo, hhi, hon⟩ := hb
  simp only [Sink.command, hpage, hlo, hhi, hon, if_false]

@[simp] theorem Sink.advance_phase (c : BitVec 7) (k : Sink) : (Sink.advance c k).phase = k.phase := by
  unfold Sink.advance; split <;> rfl

@[simp] theorem Sink.advance_ram (c : BitVec 7) (k : Sink) : (Sink.advance c k).ram = k.ram := by
  unfold Sink.advance; split <;> rfl

@[simp] theorem Sink.advance_on (c : BitVec 7) (k : Sink) : (Sink.advance c k).on = k.on := by
  unfold Sink.advance; split <;> rfl

/-- A data byte at a known pointer (R69). -/
theorem Sink.store_at {k : Sink} {p : BitVec 3} {c : BitVec 7} (h : k.pointer = some (p, c)) (b : Byte) :
    Sink.store b k = Sink.advance c { k with ram := k.ram.write (displayAddr p c) b } := by
  simp only [Sink.store, h]

/-- A data byte with the pointer unknown breaks the sink (R69). -/
theorem Sink.store_nowhere {k : Sink} (h : k.pointer = none) (b : Byte) : Sink.store b k = Sink.brokenSink := by
  simp only [Sink.store, h]

theorem Sink.accept_command_of_ready {k : Sink} (h : k.phase = .ready) (b : Byte) :
    k.accept .command b = Sink.command b k := by
  simp only [Sink.accept, h]

theorem Sink.accept_data_of_ready {k : Sink} (h : k.phase = .ready) (b : Byte) :
    k.accept .data b = Sink.store b k := by
  simp only [Sink.accept, h]

/-- Whatever byte comes, a Ready device stays Ready or breaks. -/
theorem Sink.accept_of_ready {k : Sink} (h : k.phase = .ready) (kind : Dc) (b : Byte) :
    (k.accept kind b).phase = .ready ∨ k.accept kind b = Sink.brokenSink := by
  cases kind with
  | command =>
    rw [Sink.accept_command_of_ready h]
    by_cases hb : ReadyCommand b
    · exact .inl ((Sink.command_keeps hb k).1.trans h)
    · exact .inr (Sink.command_breaks hb k)
  | data =>
    rw [Sink.accept_data_of_ready h]
    cases hp : k.pointer with
    | none => exact .inr (Sink.store_nowhere hp b)
    | some pc => exact .inl (by simpa [Sink.store_at hp] using h)

/-! ### The memory invariant -/

/-- What every reaction of the sink keeps, every step of the machine keeps. -/
theorem step_keeps_sink {Q : Sink → Prop} (hr : ∀ l e k, Q k → Q (k.react l e)) {s t : State} (h : Q s.sink)
    (hs : step s = .next t) : Q t.sink :=
  (seqKeeps_sink Q hr).step (fun _ _ h => h) (fun s h => by rw [idleStep_sink]; exact h) h hs

/-- Settles O53: every reaction of the sink keeps its memory canonical, and a step moves the sink by reactions only. -/
theorem stepKeepsMemoryCanonical : Obligations.StepKeepsMemoryCanonical := by
  intro s t h hs
  exact step_keeps_sink (Q := fun k => k.ram.wf) (fun l e _ => Sink.react_wf l e) h hs

/-! ### The sink invariant -/

/-- What the sink invariant says of the sink itself (R65, R66, R72), by `sinkInv_iff_honest`. -/
structure Sink.Honest (k : Sink) : Prop where
  unknown : k.phase ≠ .ready → k.ram = [] ∧ k.page = none ∧ k.colLo = none ∧ k.colHi = none
  broken : k.phase = .broken → k.on = none
  low : ∀ h, k.phase = .resetLow h → k.on = some false

theorem sinkInv_iff_honest (s : State) : SinkInv s ↔ s.sink.Honest :=
  ⟨fun ⟨unknown, broken, low⟩ => ⟨unknown, broken, low⟩, fun ⟨unknown, broken, low⟩ => ⟨unknown, broken, low⟩⟩

namespace Sink.Honest

theorem of_ready {k : Sink} (h : k.phase = .ready) : k.Honest :=
  ⟨fun hne => absurd h hne, fun hb => by simp [h] at hb, fun _ hl => by simp [h] at hl⟩

theorem of_brokenSink : Sink.brokenSink.Honest :=
  ⟨fun _ => ⟨rfl, rfl, rfl, rfl⟩, fun _ => rfl, fun _ h => nomatch h⟩

theorem resetLow (k : Sink) : k.resetLow.Honest := ⟨fun _ => ⟨rfl, rfl, rfl, rfl⟩, (nomatch ·), fun _ _ => rfl⟩

/-- A device that knows nothing goes on to another phase of its reset and configuration with nothing known. -/
theorem move {k : Sink} (h : k.Honest) (hk : k.phase ≠ .ready) {p : Phase} (hb : p ≠ .broken)
    (hl : ∀ held, p = .resetLow held → k.on = some false) : Sink.Honest { k with phase := p } :=
  ⟨fun _ => h.unknown hk, fun e => absurd e hb, hl⟩

theorem resetHigh {k : Sink} (h : k.Honest) : k.resetHigh.Honest := by
  unfold Sink.resetHigh
  split
  case h_1 hp => exact h.move (by simp [hp]) (by simp) (by simp)
  case h_2 => exact of_brokenSink
  all_goals exact h

theorem held {k : Sink} (h : k.Honest) : k.held.Honest := by
  unfold Sink.held
  split
  case h_1 held hp => exact h.move (by simp [hp]) (by simp) (fun _ _ => h.low held hp)
  case h_2 hp => exact h.move (by simp [hp]) (by simp) (by simp)
  all_goals exact h

theorem configured {k : Sink} (h : k.Honest) {n : Fin Config.nInit} (hp : k.phase = .config n) :
    (Sink.configured n k).Honest := by
  unfold Sink.configured
  split
  · exact h.move (by simp [hp]) (by simp) (by simp)
  · exact of_ready rfl

theorem accept {k : Sink} (h : k.Honest) (kind : Dc) (b : Byte) : (k.accept kind b).Honest := by
  cases hp : k.phase with
  | unconfigured | resetLow _ | broken => simpa only [Sink.accept, hp] using h
  | resetHigh => simpa only [Sink.accept, hp] using of_brokenSink
  | config n =>
    cases kind with
    | data => simpa only [Sink.accept, hp] using of_brokenSink
    | command =>
      simp only [Sink.accept, hp]
      split
      · exact h.configured hp
      · exact of_brokenSink
  | ready =>
    rcases Sink.accept_of_ready hp kind b with hr | hr
    · exact of_ready hr
    · rw [hr]; exact of_brokenSink

theorem react {k : Sink} (h : k.Honest) (l : Lines) (e : Event) : (k.react l e).Honest := by
  cases e with
  | lineRst v =>
    cases v with
    | low => exact resetLow k
    | high => exact h.resetHigh
  | wait d n =>
    cases d with
    | resetHold => exact h.held
    | settle => exact h
  | byte b =>
    simp only [Sink.react]
    split
    · exact h.accept l.dc b
    · exact h
  | lineCs _ | lineDc _ | sample _ _ | rx _ => exact h

theorem acceptAll (fs : List Frame) {k : Sink} (h : k.Honest) : (k.acceptAll fs).Honest := by
  induction fs generalizing k with
  | nil => exact h
  | cons f fs ih => exact ih (h.accept f.1 f.2)

end Sink.Honest

/-- Settles O54: every reaction of the sink keeps the invariant, and a step moves the sink by reactions only. -/
theorem stepKeepsSinkKnowledge : Obligations.StepKeepsSinkKnowledge := by
  intro s t h hs
  rw [sinkInv_iff_honest] at h ⊢
  exact step_keeps_sink (Q := Sink.Honest) (fun l e _ h => h.react l e) h hs

/-! ### The device follows its reset line -/

/-- Settles O35, phase by phase from the reactions to the three events. -/
theorem sinkFollowsResetLine : Obligations.SinkFollowsResetLine := by
  intro l n k
  refine ⟨rfl, rfl, rfl, rfl, rfl, rfl, fun _ => rfl, ?_, ?_, ?_, ?_, ?_, ?_⟩ <;>
    simp only [Sink.react, Sink.resetHigh, Sink.held]
  · intro hp; simp only [hp]
  · intro hp; simp only [hp]; rfl
  · intro hp
    cases h : k.phase with
    | resetLow held => exact absurd h (hp held)
    | _ => rfl
  · intro held hp; simp only [hp]
  · intro hp; simp only [hp]
  · intro hp hh
    cases h : k.phase with
    | resetLow held => exact absurd h (hp held)
    | resetHigh => exact absurd h hh
    | _ => rfl

/-! ### A broken device -/

/-- The sink after reacting to events one by one, each at the lines of its instant (R65). -/
def Sink.reactAll (les : List (Lines × Event)) (k : Sink) : Sink := les.foldl (fun k le => k.react le.1 le.2) k

/-- From `s` to `t` the byte-level trace grew by the events of `les`, and the sink is what they made of it. -/
structure MovesSinkBy (les : List (Lines × Event)) (s t : State) : Prop where
  bytes : t.byteTrace = s.byteTrace ++ les.map Prod.snd
  sink : t.sink = s.sink.reactAll les

/-- Without an event the sink stands still. -/
theorem MovesSinkBy.still {s t : State} (hb : t.byteTrace = s.byteTrace) (hk : t.sink = s.sink) : MovesSinkBy [] s t :=
  ⟨by simpa using hb, hk⟩

theorem MovesSinkBy.trans {xs ys : List (Lines × Event)} {s t u : State} (h : MovesSinkBy xs s t)
    (g : MovesSinkBy ys t u) : MovesSinkBy (xs ++ ys) s u :=
  ⟨by simp [g.bytes, h.bytes], by simp [g.sink, h.sink, Sink.reactAll]⟩

theorem ByShifter.movesSinkBy {s t : State} (h : ByShifter s t) : MovesSinkBy [] s t :=
  .still h.bytes h.sink

theorem emit_movesSinkBy {e : Event} (he : e.byteLevel = true) (s : State) :
    MovesSinkBy [(s.lines, e)] s (s.emit e) :=
  ⟨by simp [he], rfl⟩

/-- A step of the sequencer moves the sink by the events it emits alone. -/
theorem run_movesSinkBy (a : SeqStep) (s : State) : ∃ les, MovesSinkBy les s (a.run s).state := by
  have turn := (shifterTurn_byShifter s).movesSinkBy
  have emits {e : Event} (he : e.byteLevel = true) {u : State} (hb : u.byteTrace = s.shifterTurn.byteTrace)
      (hk : u.sink = s.shifterTurn.sink) : ∃ les, MovesSinkBy les s (u.emit e) :=
    ⟨_, (turn.trans (.still hb hk)).trans (emit_movesSinkBy he u)⟩
  cases a with
  | wait c =>
    show ∃ les, MovesSinkBy les s (s.waitUntil c).state
    rw [waitUntil_state]
    exact ⟨_, (shiftUntil_byShifter c waitFuel s).movesSinkBy⟩
  | poll =>
    obtain ⟨l, hp⟩ := pollButton_polled s.seq.oprButton s
    have hb := hp.bytes
    show ∃ les, MovesSinkBy les s (s.shifterTurn.pollButton s.seq.oprButton)
    split at hb
    · exact ⟨[(s.lines, .sample _ l), (s.lines, .wait .settle _)], by simpa using hb, hp.sink⟩
    · exact ⟨[(s.lines, .sample _ l)], by simpa using hb, hp.sink⟩
  | driveCs _ | driveDc _ | driveRst _ | load _ | resetHold => exact emits rfl rfl rfl
  | takeByte => exact ⟨_, turn.trans (.still rfl rfl)⟩
  | configure | clearPage | incPage | clearCol | incCol | clearIdx | incIdx | writeSettle => exact ⟨_, .still rfl rfl⟩

/-- All that a step of the machine does to the sink: the events it adds to the byte-level trace move it. -/
theorem step_movesSinkBy {s t : State} (h : step s = .next t) : ∃ les, MovesSinkBy les s t := by
  have keeps : SeqKeeps (fun t => ∃ les, MovesSinkBy les s t) :=
    { run := fun a t ⟨_, h⟩ => have ⟨_, g⟩ := run_movesSinkBy a t; ⟨_, h.trans g⟩
      tick := fun _ ⟨_, h⟩ => ⟨_, h.bytes, h.sink⟩
      accept := fun _ _ ⟨_, h⟩ => ⟨_, h.bytes, h.sink⟩
      complete := fun _ ⟨_, h⟩ => ⟨_, h.bytes, h.sink⟩ }
  refine keeps.step (fun _ _ ⟨_, h⟩ => ⟨_, h.bytes, h.sink⟩) (fun u ⟨_, h⟩ => ?_) ⟨_, .still rfl rfl⟩ h
  rcases idleStep_cases u with ⟨-, hi⟩ | ⟨host, hi⟩ <;> rw [hi]
  · exact ⟨_, h.trans (shifterStep_byShifter u).movesSinkBy⟩
  · exact ⟨_, h.bytes, h.sink⟩

/-- A broken sink reacts to nothing but a low reset line (R72). -/
theorem Sink.react_of_broken {k : Sink} (h : k.phase = .broken) (l : Lines) {e : Event} (he : e ≠ .lineRst .low) :
    k.react l e = k := by
  cases e with
  | lineRst v =>
    cases v with
    | low => exact absurd rfl he
    | high => simp only [Sink.react, Sink.resetHigh, h]
  | wait d n =>
    cases d with
    | resetHold => simp only [Sink.react, Sink.held, h]
    | settle => rfl
  | byte b => cases hc : l.cs <;> simp only [Sink.react, Sink.accept, hc, h]
  | lineCs _ | lineDc _ | sample _ _ | rx _ => rfl

theorem Sink.reactAll_of_broken {k : Sink} (h : k.phase = .broken) (les : List (Lines × Event)) :
    k.reactAll les = k ∨ Event.lineRst .low ∈ les.map Prod.snd := by
  induction les with
  | nil => exact .inl rfl
  | cons le les ih =>
    by_cases he : le.2 = .lineRst .low
    · exact .inr (by simp [he])
    · rw [Sink.reactAll, List.foldl_cons, Sink.react_of_broken h le.1 he]
      exact ih.imp id (List.mem_cons_of_mem _)

/-- Settles O42: a step moves the sink by its events, and only a low reset line moves a broken one. -/
theorem brokenDeviceStaysBroken : Obligations.BrokenDeviceStaysBroken := by
  intro s t hb hs
  obtain ⟨les, h⟩ := step_movesSinkBy hs
  refine ⟨les.map Prod.snd, h.bytes, ?_⟩
  rw [h.sink]
  exact Sink.reactAll_of_broken hb les

end Sys2Proof.Machine

/-! ## The frame operations as the device sees them: one frame, a page select, the configuration -/

namespace Sys2Proof.Machine

/-! ### What an operation sends -/

/-- A well-formed operation runs its pseudocode. -/
theorem exec_of_wf {i : Instr} (hi : i.wf = true) (s : State) :
    exec i s = .next (operation (encode i) (pseudocode i) s) := by
  cases i with
  | pollEdge b => exact if_pos hi
  | _ => rfl

/-- On a free port an operation whose pseudocode runs to its end completes. -/
theorem exec_of_moved {i : Instr} (hi : i.wf = true) {s t : State} (hf : s.PortFree)
    (h : advance (pseudocode i) (s.acceptWord (encode i)) = .moved t) : exec i s = .next t.complete := by
  rw [exec_of_wf hi, operation_of_free hf, h, Progress.finish_moved]

theorem linesAfter_of_getLast? {fs : List Frame} {f : Frame} (h : fs.getLast? = some f) (l : Lines) :
    linesAfter fs l = { cs := .deasserted, dc := f.1, rst := l.rst } := by
  obtain ⟨gs, rfl⟩ := List.getLast?_eq_some_iff.mp h
  have rst : (linesAfter gs l).rst = l.rst := by
    clear h
    induction gs generalizing l with
    | nil => rfl
    | cons g gs ih => exact ih _
  simpa [linesAfter] using rst

/-- An operation that has sent its frames by the end of its pseudocode has sent them when it completes. -/
theorem sentFrames_complete {w : OpWord} {fs : List Frame} {f : Frame} {s t : State} (hlast : fs.getLast? = some f)
    (h : Sends fs (s.acceptWord w) t) : SentFrames w fs f.1 s t.complete where
  completed := ⟨rfl, h.opc, h.opr⟩
  events := h.bytes
  sink := h.sink
  lines := h.lines.trans (linesAfter_of_getLast? hlast _)
  sent := by
    obtain ⟨idle, sck, rxne⟩ := h.sent (.inr fun hnil => by simp [hnil] at hlast)
    exact ⟨idle, sck, rxne⟩
  kept := ((accept_kept w s).trans h.kept).trans (complete_kept t)

/-- An operation of one frame (R121, R122). -/
theorem exec_frame {i : Instr} (hi : i.wf = true) {k : Dc} {src : ByteSrc} {b : Byte} {s : State}
    (hp : pseudocode i = frame k src) (hb : src.value (s.acceptWord (encode i)).seq = b) (hf : s.PortFree)
    (hs : s.Serves) : ∃ t, exec i s = .next t ∧ SentFrames (encode i) [(k, b)] k s t ∧ CountersKept s t := by
  obtain ⟨t, ht, hsends, hcount⟩ := advance_frame_sends k src (s := s.acceptWord (encode i)) hs
  rw [hb] at hsends
  exact ⟨t.complete, exec_of_moved hi hf (hp ▸ ht), sentFrames_complete rfl hsends,
    hcount.pageCnt, hcount.colCnt, hcount.initIdx⟩

theorem exec_command (b : Byte) {s : State} (hf : s.PortFree) (hs : s.Serves) :
    ∃ t, exec (.command b) s = .next t ∧ SentFrames (encode (.command b)) [(.command, b)] .command s t ∧
      CountersKept s t :=
  exec_frame rfl rfl (oprByte_accept 0x11#8 b s) hf hs

theorem exec_data (b : Byte) {s : State} (hf : s.PortFree) (hs : s.Serves) :
    ∃ t, exec (.data b) s = .next t ∧ SentFrames (encode (.data b)) [(.data, b)] .data s t ∧ CountersKept s t :=
  exec_frame rfl rfl (oprByte_accept 0x12#8 b s) hf hs

theorem exec_selectPage (page : BitVec 3) (column : BitVec 7) {s : State} (hf : s.PortFree) (hs : s.Serves) :
    ∃ t, exec (.selectPage page column) s = .next t ∧
      SentFrames (encode (.selectPage page column)) (selectFrames page column) .command s t ∧ CountersKept s t := by
  obtain ⟨t, ht, hsends, hcount⟩ := advance_three_frames .pageOfOperand .colLoOfOperand .colHiOfOperand
    (s := s.acceptWord (encode (.selectPage page column))) hs
    (by intro q hq _; simp only [ByteSrc.value, Sequencer.oprPage, Sequencer.oprColumn, hq, and_self])
  have hpage := oprPage_accept 0x15#8 page column s
  have hcolumn := oprColumn_accept 0x15#8 page column s
  simp only [ByteSrc.value, encode, hpage, hcolumn] at hsends
  exact ⟨t.complete, exec_of_moved rfl hf ht, sentFrames_complete (f := (.command, _)) rfl hsends,
    hcount.pageCnt, hcount.colCnt, hcount.initIdx⟩

/-- A screen is its pages up to the last, and the last one. -/
theorem screenFrames_eq (f : Nat → Nat → Byte) :
    screenFrames f = (List.range 7).flatMap (pageFrames f) ++ pageFrames f 7 := by
  rw [screenFrames, show Config.nPages = 7 + 1 from rfl, List.range_succ, List.flatMap_append, List.flatMap_singleton]

theorem pageFrames_getLast? (f : Nat → Nat → Byte) (page : Nat) :
    (pageFrames f page).getLast? = some (.data, f page 127) := by
  rw [pageFrames, show Config.nCols = 127 + 1 from rfl, List.range_succ, List.map_append, ← List.append_assoc]
  exact List.getLast?_concat

theorem screenFrames_getLast? (f : Nat → Nat → Byte) : (screenFrames f).getLast? = some (.data, f 7 127) := by
  rw [screenFrames_eq, List.getLast?_append, pageFrames_getLast?, Option.some_or]

/-- A full-screen operation (R125, R152). -/
theorem exec_screen {i : Instr} (hi : i.wf = true) {src : ByteSrc} {f : Nat → Nat → Byte} {s : State}
    (hp : pseudocode i = screenSteps src) (hsrc : src.IsScreen f (operandOf (encode i))) (hf : s.PortFree)
    (hs : s.Serves) :
    ∃ t, exec i s = .next t ∧ SentFrames (encode i) (screenFrames f) .data s t ∧ t.seq.pageCnt = 8#4 ∧
      t.seq.colCnt = 128#8 ∧ t.seq.initIdx = s.seq.initIdx := by
  obtain ⟨t, ht, hsends, hpage, hcol, hidx⟩ := advance_screen (s := s.acceptWord (encode i)) hs hsrc
  exact ⟨t.complete, exec_of_moved hi hf (hp ▸ ht), sentFrames_complete (screenFrames_getLast? f) hsends,
    hpage, hcol, hidx⟩

theorem exec_clear {s : State} (hf : s.PortFree) (hs : s.Serves) :
    ∃ t, exec .clear s = .next t ∧ SentFrames (encode .clear) (screenFrames fun _ _ => 0x00#8) .data s t ∧
      t.seq.pageCnt = 8#4 ∧ t.seq.colCnt = 128#8 ∧ t.seq.initIdx = s.seq.initIdx :=
  exec_screen rfl rfl (fun _ _ => rfl) hf hs

theorem exec_render (inv : Bool) {s : State} (hf : s.PortFree) (hs : s.Serves) :
    ∃ t, exec (.render inv) s = .next t ∧ SentFrames (encode (.render inv)) (screenFrames (pattern inv)) .data s t ∧
      t.seq.pageCnt = 8#4 ∧ t.seq.colCnt = 128#8 ∧ t.seq.initIdx = s.seq.initIdx := by
  refine exec_screen rfl rfl (src := .patternByte) (fun q hq => ?_) hf hs
  have hinv : q.oprInv = inv := by
    rw [Sequencer.oprInv, hq]
    exact oprInv_accept 0x20#8 inv s
  rw [ByteSrc.value, hinv]

/-! ### Frames to a device that is not Ready -/

theorem initSeq_getElem? (n : Fin 26) : Config.initSeq[n.val]? = some (Config.initSeqAt n.val) := by
  rw [Config.initSeq, List.getElem?_map, List.getElem?_range n.isLt, Option.map_some]

/-- Of a broken sink nothing is known (R72). -/
theorem Sink.unknown_of_broken {k : Sink} (h : k = Sink.brokenSink) :
    k.phase = .broken ∧ k.on = none ∧ k.page = none ∧ k.colLo = none ∧ k.colHi = none ∧ ∀ a, k.ram.read a = none := by
  subst h
  exact ⟨rfl, rfl, rfl, rfl, rfl, fun _ => rfl⟩

/-- Settles O36: the sink accepts the frame, and in Config(n) takes it for the next byte of INIT_SEQ. -/
theorem configurationIsChecked : Obligations.ConfigurationIsChecked := by
  intro n b s hf hs hn
  constructor
  · obtain ⟨t, ht, sent, -⟩ := exec_command b hf hs
    have hsink : t.sink = if b = Config.initSeqAt n.val then Sink.configured n s.sink else Sink.brokenSink := by
      rw [sent.sink]
      simp only [Sink.acceptAll, List.foldl_cons, List.foldl_nil, Sink.accept, hn]
    refine ⟨t, ht, sent.completed.free, ?_, ?_⟩ <;> rw [initSeq_getElem?]
    · intro hb
      rw [if_pos (Option.some.inj hb).symm] at hsink
      rw [hsink]
      exact ⟨fun h => dif_pos h, fun h => dif_neg (by simp [h])⟩
    · intro hb
      rw [if_neg fun h => hb (congrArg some h.symm)] at hsink
      exact Sink.unknown_of_broken hsink
  · obtain ⟨t, ht, sent, -⟩ := exec_data b hf hs
    refine ⟨t, ht, sent.completed.free, Sink.unknown_of_broken ?_⟩
    rw [sent.sink]
    simp only [Sink.acceptAll, List.foldl_cons, List.foldl_nil, Sink.accept, hn]

/-- Settles O37: the sink accepts the frame, whatever its kind. -/
theorem framesOutsideConfiguration : Obligations.FramesOutsideConfiguration := by
  intro b i s hi hf hs
  have accepts : ∃ kind t, exec i s = .next t ∧ t.PortFree ∧ t.sink = s.sink.accept kind b := by
    obtain rfl | rfl := hi
    · obtain ⟨t, ht, sent, -⟩ := exec_command b hf hs
      exact ⟨.command, t, ht, sent.completed.free, sent.sink⟩
    · obtain ⟨t, ht, sent, -⟩ := exec_data b hf hs
      exact ⟨.data, t, ht, sent.completed.free, sent.sink⟩
  obtain ⟨kind, t, ht, hfree, hsink⟩ := accepts
  refine ⟨fun hp => ⟨t, ht, hfree, ?_⟩, fun hp => ⟨t, ht, hfree, Sink.unknown_of_broken ?_⟩⟩ <;> rw [hsink]
  · obtain hp | hp | ⟨held, hp⟩ := hp <;> simp only [Sink.accept, hp]
  · simp only [Sink.accept, hp]

/-! ### Command bytes on a Ready device -/

/-- Settles O40: a command byte of the four forms keeps phase and RAM, every other one breaks the sink. -/
theorem commandNeverWritesRam : Obligations.CommandNeverWritesRam := by
  intro b s hf hs hr
  obtain ⟨t, ht, sent, -⟩ := exec_command b hf hs
  have hsink : t.sink = Sink.command b s.sink := sent.sink.trans (Sink.accept_command_of_ready hr b)
  refine ⟨t, ht, sent.completed.free, fun hb => ?_, fun hb => ?_⟩
  · obtain ⟨hphase, hram⟩ := Sink.command_keeps hb s.sink
    rw [hsink, hphase, hram]
    exact ⟨hr, fun _ => rfl⟩
  · obtain ⟨hphase, hon, -, -, -, hram⟩ := Sink.unknown_of_broken (hsink.trans (Sink.command_breaks hb s.sink))
    exact ⟨hphase, hon, hram⟩

theorem Sink.command_page (page : BitVec 3) (k : Sink) :
    Sink.command (0xB0#8 + page.setWidth 8) k = { k with page := some page } := by
  have form : 0xB0#8 ≤ 0xB0#8 + page.setWidth 8 ∧ 0xB0#8 + page.setWidth 8 ≤ 0xB7#8 := by revert page; decide
  have value : (0xB0#8 + page.setWidth 8 - 0xB0#8).setWidth 3 = page := by revert page; decide
  rw [Sink.command, if_pos form, value]

theorem Sink.command_colLo (lo : BitVec 4) (k : Sink) :
    Sink.command (0x00#8 + lo.setWidth 8) k = { k with colLo := some lo } := by
  have notPage : ¬ (0xB0#8 ≤ 0x00#8 + lo.setWidth 8 ∧ 0x00#8 + lo.setWidth 8 ≤ 0xB7#8) := by revert lo; decide
  have form : 0x00#8 + lo.setWidth 8 ≤ 0x0F#8 := by revert lo; decide
  have value : (0x00#8 + lo.setWidth 8).setWidth 4 = lo := by revert lo; decide
  rw [Sink.command, if_neg notPage, if_pos form, value]

theorem Sink.command_colHi (hi : BitVec 3) (k : Sink) :
    Sink.command (0x10#8 + hi.setWidth 8) k = { k with colHi := some hi } := by
  have notPage : ¬ (0xB0#8 ≤ 0x10#8 + hi.setWidth 8 ∧ 0x10#8 + hi.setWidth 8 ≤ 0xB7#8) := by revert hi; decide
  have notLo : ¬ 0x10#8 + hi.setWidth 8 ≤ 0x0F#8 := by revert hi; decide
  have form : 0x10#8 ≤ 0x10#8 + hi.setWidth 8 ∧ 0x10#8 + hi.setWidth 8 ≤ 0x17#8 := by revert hi; decide
  have value : (0x10#8 + hi.setWidth 8 - 0x10#8).setWidth 3 = hi := by revert hi; decide
  rw [Sink.command, if_neg notPage, if_neg notLo, if_pos form, value]

/-- A column is its high part and its low part (R88). -/
theorem column_parts (column : BitVec 7) : column.extractLsb' 4 3 ++ column.extractLsb' 0 4 = column := by
  revert column; decide

/-- The device with its pointer at (page, column), all else as before. -/
def Sink.pointTo (page : BitVec 3) (column : BitVec 7) (k : Sink) : Sink :=
  { k with page := some page, colLo := some (column.extractLsb' 0 4), colHi := some (column.extractLsb' 4 3) }

@[simp] theorem Sink.pointTo_pointer (page : BitVec 3) (column : BitVec 7) (k : Sink) :
    (k.pointTo page column).pointer = some (page, column) := by
  simp only [Sink.pointer, Sink.pointTo, column_parts]

/-- The three frames of a page select set the pointer of a Ready device and do nothing else (R69, R124). -/
theorem Sink.acceptAll_selectFrames {k : Sink} (hr : k.phase = .ready) (page : BitVec 3) (column : BitVec 7) :
    k.acceptAll (selectFrames page column) = k.pointTo page column := by
  rw [selectFrames, Sink.acceptAll, List.foldl_cons, Sink.accept_command_of_ready hr, Sink.command_page,
    List.foldl_cons, Sink.accept_command_of_ready (by exact hr), Sink.command_colLo,
    List.foldl_cons, Sink.accept_command_of_ready (by exact hr), Sink.command_colHi]
  rfl

/-- Settles O39: the three commands of a page select set the three parts of the pointer. -/
theorem selectPageSetsPointer : Obligations.SelectPageSetsPointer := by
  intro page column s hf hs hr
  obtain ⟨t, ht, sent, -⟩ := exec_selectPage page column hf hs
  have hsink := sent.sink.trans (Sink.acceptAll_selectFrames hr page column)
  refine ⟨t, ht, sent.completed.free, ?_⟩
  rw [hsink]
  exact ⟨Sink.pointTo_pointer page column _, hr, rfl, fun _ => rfl⟩

end Sys2Proof.Machine

/-! ## The display, end to end: configuration by INIT, full screens on a Ready device and on another -/

namespace Sys2Proof.Machine

theorem Sink.acceptAll_append (fs gs : List Frame) (k : Sink) :
    k.acceptAll (fs ++ gs) = (k.acceptAll fs).acceptAll gs :=
  List.foldl_append

/-! ### Full screens on a Ready device -/

/-- The pointer of the device is unknown in all its parts. -/
def Sink.NoPointer (k : Sink) : Prop := k.page = none ∧ k.colLo = none ∧ k.colHi = none

/-- All that the data byte `b` does to a Ready device with its pointer at (page, column) (R69, R70). -/
structure Stored (b : Byte) (page : BitVec 3) (column : BitVec 7) (k k' : Sink) : Prop where
  ready : k'.phase = .ready
  on : k'.on = k.on
  ram : k'.ram = k.ram.write (displayAddr page column) b
  inside : column.toNat < 127 → k'.pointer = some (page, column + 1#7)
  last : column.toNat = 127 → k'.NoPointer

theorem Sink.page_of_pointer {k : Sink} {page : BitVec 3} {column : BitVec 7} (h : k.pointer = some (page, column)) :
    k.page = some page := by
  unfold Sink.pointer at h
  split at h
  case h_1 hpage _ _ =>
    cases h
    exact hpage
  all_goals exact nomatch h

theorem Sink.accept_stored {k : Sink} (hr : k.phase = .ready) {page : BitVec 3} {column : BitVec 7}
    (hp : k.pointer = some (page, column)) (b : Byte) : Stored b page column k (k.accept .data b) := by
  rw [Sink.accept_data_of_ready hr, Sink.store_at hp]
  have hpage := Sink.page_of_pointer hp
  constructor
  case ready => simpa using hr
  case on => simp
  case ram => simp
  case inside =>
    intro hc
    rw [Sink.advance, if_pos (by simp only [Config.nCols]; omega)]
    simp only [Sink.pointer, hpage, column_parts]
  case last =>
    intro hc
    rw [Sink.advance, if_neg (by simp only [Config.nCols]; omega)]
    exact ⟨rfl, rfl, rfl⟩

/-- Settles O38: the device stores the byte at its pointer, and a written cell is read back. -/
theorem dataWritesAtPointer : Obligations.DataWritesAtPointer := by
  intro b page column s hf hs hr hp
  obtain ⟨t, ht, sent, -⟩ := exec_data b hf hs
  have stored : Stored b page column s.sink t.sink := sent.sink ▸ Sink.accept_stored hr hp b
  refine ⟨t, ht, sent.completed.free, stored.ready, stored.on, ?_, ?_, stored.inside, stored.last⟩
  · rw [stored.ram]
    exact Memory.read_write_same _ b _
  · intro a ha
    rw [stored.ram]
    exact Memory.read_write_other ha b _

/-- From `k` to `k'` the cells with addresses from `lo` to below `hi` took the bytes of the picture `f`, and the device is
Ready with all other cells and its `on` flag as before (R55, R69). -/
structure Painted (f : Nat → Nat → Byte) (lo hi : Nat) (k k' : Sink) : Prop where
  ready : k'.phase = .ready
  on : k'.on = k.on
  cells : ∀ a, k'.ram.read a = if lo ≤ a ∧ a < hi then some (f (a / 128) (a % 128)) else k.ram.read a

theorem Painted.none {k : Sink} (hr : k.phase = .ready) (f : Nat → Nat → Byte) (lo : Nat) : Painted f lo lo k k where
  ready := hr
  on := rfl
  cells a := (if_neg (by omega)).symm

theorem Painted.trans {f : Nat → Nat → Byte} {lo mid hi : Nat} {k k' k'' : Sink} (h : Painted f lo mid k k')
    (g : Painted f mid hi k' k'') (hlm : lo ≤ mid) (hmh : mid ≤ hi) : Painted f lo hi k k'' where
  ready := g.ready
  on := g.on.trans h.on
  cells a := by
    rw [g.cells, h.cells]
    by_cases hlow : a < mid
    · simp only [show ¬ mid ≤ a by omega, hlow, show a < hi by omega, and_true, if_false]
    · simp only [show mid ≤ a by omega, hlow, show lo ≤ a by omega, true_and, and_false, if_false]

/-- One byte stored is a picture of one cell. -/
theorem Stored.painted {b : Byte} {page : BitVec 3} {column : BitVec 7} {k k' : Sink} (h : Stored b page column k k')
    {f : Nat → Nat → Byte} (hb : f page.toNat column.toNat = b) :
    Painted f (page.toNat * 128 + column.toNat) (page.toNat * 128 + column.toNat + 1) k k' where
  ready := h.ready
  on := h.on
  cells a := by
    have hcol := column.isLt
    rw [h.ram]
    by_cases ha : a = displayAddr page column
    · rw [ha, Memory.read_write_same, displayAddr, Config.nCols, if_pos ⟨le_rfl, Nat.lt_succ_self _⟩,
        show (page.toNat * 128 + column.toNat) / 128 = page.toNat by omega,
        show (page.toNat * 128 + column.toNat) % 128 = column.toNat by omega, hb]
    · rw [Memory.read_write_other ha, if_neg]
      simp only [displayAddr, Config.nCols] at ha
      omega

/-- One data frame of a picture on a Ready device with its pointer at column `c`. -/
theorem Sink.accept_cell (f : Nat → Nat → Byte) {page : BitVec 3} {c : Nat} (hc : c < 128) {k : Sink}
    (hr : k.phase = .ready) (hp : k.pointer = some (page, BitVec.ofNat 7 c)) :
    let k' := k.accept .data (f page.toNat c)
    Painted f (page.toNat * 128 + c) (page.toNat * 128 + c + 1) k k' ∧
      (c < 127 → k'.pointer = some (page, BitVec.ofNat 7 (c + 1))) ∧ (c = 127 → k'.NoPointer) := by
  have hcol : (BitVec.ofNat 7 c).toNat = c := Nat.mod_eq_of_lt hc
  have stored := Sink.accept_stored hr hp (f page.toNat c)
  have painted := stored.painted (f := f) (by rw [hcol])
  have inside := stored.inside
  have last := stored.last
  rw [hcol] at painted inside last
  exact ⟨painted, fun h => by rw [inside h, BitVec.ofNat_add], last⟩

/-- Data frames from a column to the end of its page paint the rest of the page and leave the pointer unknown. -/
theorem Sink.acceptAll_columns (f : Nat → Nat → Byte) (page : BitVec 3) (n c : Nat) (hc : c + n = 127) {k : Sink}
    (hr : k.phase = .ready) (hp : k.pointer = some (page, BitVec.ofNat 7 c)) :
    let k' := k.acceptAll ((List.range' c (n + 1)).map fun c => (.data, f page.toNat c))
    Painted f (page.toNat * 128 + c) (page.toNat * 128 + 128) k k' ∧ k'.NoPointer := by
  induction n generalizing c k with
  | zero =>
    obtain rfl : c = 127 := hc
    obtain ⟨painted, -, last⟩ := Sink.accept_cell f (by omega) hr hp
    exact ⟨painted, last rfl⟩
  | succ n ih =>
    obtain ⟨painted, next, -⟩ := Sink.accept_cell f (show c < 128 by omega) hr hp
    obtain ⟨rest, hno⟩ := ih (c + 1) (by omega) painted.ready (next (by omega))
    exact ⟨painted.trans rest (by omega) (by omega), hno⟩

/-- The page select of a full-screen operation is that of column 0. -/
theorem pageFrames_eq (f : Nat → Nat → Byte) (page : BitVec 3) :
    pageFrames f page.toNat =
      selectFrames page 0#7 ++ (List.range' 0 128).map fun c => (.data, f page.toNat c) := by
  have hpage : BitVec.ofNat 8 page.toNat = page.setWidth 8 := by revert page; decide
  rw [pageFrames, hpage, Config.nCols, List.range_eq_range']
  rfl

/-- The frames of a page paint the page and leave the pointer unknown, wherever it was (R70, R125, R152). -/
theorem Sink.acceptAll_pageFrames (f : Nat → Nat → Byte) {page : Nat} (hlt : page < 8) {k : Sink}
    (hr : k.phase = .ready) :
    Painted f (page * 128) ((page + 1) * 128) k (k.acceptAll (pageFrames f page)) ∧
      (k.acceptAll (pageFrames f page)).NoPointer := by
  have hpage : (BitVec.ofNat 3 page).toNat = page := by simp only [BitVec.toNat_ofNat]; omega
  rw [← hpage, pageFrames_eq, Sink.acceptAll_append, Sink.acceptAll_selectFrames hr]
  obtain ⟨painted, hno⟩ := Sink.acceptAll_columns f (BitVec.ofNat 3 page) 127 0 rfl
    (k := k.pointTo (BitVec.ofNat 3 page) 0#7) hr (Sink.pointTo_pointer _ _ k)
  refine ⟨?_, hno⟩
  rw [Nat.add_one_mul]
  exact ⟨painted.ready, painted.on, painted.cells⟩

theorem Sink.acceptAll_pages (f : Nat → Nat → Byte) (n : Nat) (hn : n ≤ 8) {k : Sink} (hr : k.phase = .ready) :
    Painted f 0 (n * 128) k (k.acceptAll ((List.range n).flatMap (pageFrames f))) := by
  induction n with
  | zero => exact .none hr f 0
  | succ n ih =>
    have before := ih (by omega)
    rw [List.range_succ, List.flatMap_append, List.flatMap_singleton, Sink.acceptAll_append]
    exact before.trans (Sink.acceptAll_pageFrames f (by omega) before.ready).1 (by omega) (by omega)

/-- The frames of a screen paint all 1024 cells and leave the pointer unknown (R73). -/
theorem Sink.acceptAll_screenFrames (f : Nat → Nat → Byte) {k : Sink} (hr : k.phase = .ready) :
    Painted f 0 1024 k (k.acceptAll (screenFrames f)) ∧ (k.acceptAll (screenFrames f)).NoPointer := by
  have before := Sink.acceptAll_pages f 7 (by omega) hr
  obtain ⟨painted, hno⟩ := Sink.acceptAll_pageFrames f (show 7 < 8 by omega) before.ready
  rw [screenFrames_eq, Sink.acceptAll_append]
  exact ⟨before.trans painted (by omega) (by omega), hno⟩

/-- A painted screen, cell by cell (R55). -/
theorem Painted.screen {f : Nat → Nat → Byte} {k k' : Sink} (h : Painted f 0 1024 k k') :
    (∀ page < 8, ∀ column < 128, k'.ram.read (page * 128 + column) = some (f page column)) ∧
      ∀ a, 1024 ≤ a → k'.ram.read a = k.ram.read a := by
  constructor
  · intro page hp column hc
    rw [h.cells, if_pos (by omega), show (page * 128 + column) / 128 = page by omega,
      show (page * 128 + column) % 128 = column by omega]
  · intro a ha
    rw [h.cells, if_neg (by omega)]

/-- Settles O32: CLEAR sends the screen of zero bytes, which paints every cell of a Ready device. -/
theorem clearBlanksDisplay : Obligations.ClearBlanksDisplay := by
  intro s hf hs hr
  obtain ⟨t, ht, sent, -⟩ := exec_clear hf hs
  obtain ⟨painted, hno⟩ := Sink.acceptAll_screenFrames (fun _ _ => 0x00#8) hr
  rw [← sent.sink] at painted hno
  obtain ⟨cells, beyond⟩ := painted.screen
  exact ⟨t, ht, sent.completed.free, painted.ready, painted.on, cells, beyond, hno⟩

/-- Settles O33: RENDER sends the screen of the pattern, which paints every cell of a Ready device. -/
theorem renderPaintsCheckerboard : Obligations.RenderPaintsCheckerboard := by
  intro inv s hf hs hr
  obtain ⟨t, ht, sent, -⟩ := exec_render inv hf hs
  obtain ⟨painted, hno⟩ := Sink.acceptAll_screenFrames (pattern inv) hr
  rw [← sent.sink] at painted hno
  obtain ⟨cells, beyond⟩ := painted.screen
  exact ⟨t, ht, sent.completed.free, painted.ready, painted.on, cells, beyond, hno⟩

/-! ### Full screens on a device that is not Ready -/

/-- Only the display-on command, as the last byte of INIT_SEQ, makes a device Ready (R68, R90). -/
theorem Sink.accept_unready {k : Sink} (hk : k.phase ≠ .ready) {kind : Dc} {b : Byte}
    (hb : (kind, b) ≠ (.command, 0xAF#8)) : (k.accept kind b).phase ≠ .ready := by
  cases hp : k.phase with
  | unconfigured | resetLow _ | broken => simpa only [Sink.accept, hp] using hk
  | resetHigh => simp [Sink.accept, hp, Sink.brokenSink]
  | ready => exact absurd hp hk
  | config n =>
    cases kind with
    | data => simp [Sink.accept, hp, Sink.brokenSink]
    | command =>
      simp only [Sink.accept, hp]
      split
      · rename_i hexpected
        have hn : n.val ≠ 25 := fun hn => hb (by rw [hexpected, hn]; rfl)
        have hlt := n.isLt
        simp only [Config.nInit] at hlt
        rw [Sink.configured, dif_pos (by simp only [Config.nInit]; omega)]
        simp
      · simp [Sink.brokenSink]

theorem Sink.acceptAll_unready {fs : List Frame} (hfs : ∀ f ∈ fs, f ≠ (.command, 0xAF#8)) {k : Sink}
    (hk : k.phase ≠ .ready) : (k.acceptAll fs).phase ≠ .ready := by
  induction fs generalizing k with
  | nil => exact hk
  | cons f fs ih =>
    obtain ⟨hf, hfs⟩ := List.forall_mem_cons.mp hfs
    exact ih hfs (Sink.accept_unready hk hf)

/-- A full-screen operation never sends the display-on command. -/
theorem screenFrames_ne_displayOn (f : Nat → Nat → Byte) : ∀ fr ∈ screenFrames f, fr ≠ (.command, 0xAF#8) := by
  have select : ∀ page < 8, 0xB0#8 + BitVec.ofNat 8 page ≠ 0xAF#8 := by decide
  intro fr hfr
  obtain ⟨page, hpage, hfr⟩ := List.mem_flatMap.mp hfr
  have hcmd := select page (List.mem_range.mp hpage)
  simp only [pageFrames, List.mem_append, List.mem_cons, List.not_mem_nil, or_false, List.mem_map] at hfr
  obtain (rfl | rfl | rfl) | ⟨c, -, rfl⟩ := hfr <;> simp [hcmd]

/-- A screen sent to a device that is not Ready leaves it not Ready and nothing known of its RAM. -/
theorem SentFrames.screen_unready {w : OpWord} {f : Nat → Nat → Byte} {s t : State}
    (h : SentFrames w (screenFrames f) .data s t) (hinv : SinkInv s) (hk : s.sink.phase ≠ .ready) :
    t.sink.phase ≠ .ready ∧ ∀ a, t.sink.ram.read a = none := by
  have hready : t.sink.phase ≠ .ready := h.sink ▸ Sink.acceptAll_unready (screenFrames_ne_displayOn f) hk
  have honest : t.sink.Honest := h.sink ▸ Sink.Honest.acceptAll _ ((sinkInv_iff_honest s).mp hinv)
  obtain ⟨hram, -⟩ := honest.unknown hready
  exact ⟨hready, fun a => by rw [hram]; rfl⟩

/-- Settles O34: no frame of a screen is the display-on command, and the sink invariant leaves the RAM unknown. -/
theorem unreadyDeviceShowsNothing : Obligations.UnreadyDeviceShowsNothing := by
  intro i s hi hf hs hinv hk
  obtain rfl | ⟨inv, rfl⟩ := hi
  · obtain ⟨t, ht, sent, -⟩ := exec_clear hf hs
    exact ⟨t, ht, sent.completed.free, sent.screen_unready hinv hk⟩
  · obtain ⟨t, ht, sent, -⟩ := exec_render inv hf hs
    exact ⟨t, ht, sent.completed.free, sent.screen_unready hinv hk⟩

/-! ### SPI_INIT and INIT -/

/-- With a shifter that never stops, the wait of SPI_INIT ends (R101). -/
theorem waitUntil_idleIfEnabled {s : State} (hw : s.env.wedge = none) :
    ∃ t, s.waitUntil .idleIfEnabled = .moved t ∧ ByShifter s t := by
  rcases waitUntil_cases .idleIfEnabled s with ⟨t, ht, hby, -⟩ | ⟨t, -, hby, hholds, hactive⟩
  · exact ⟨t, ht, hby⟩
  · simp only [WaitCond.holds, Bool.or_eq_false_iff, Bool.not_eq_false'] at hholds
    obtain ⟨hen, hbusy⟩ := hholds
    have idle : t.spi.busy = false := idle_of_not_active ⟨hen, hby.wedge hw⟩ hactive
    exact absurd (idle.symm.trans hbusy) (by simp)

/-- SPI_INIT brings a shifter that never stops into service (R101). -/
theorem exec_spiInit_serves {s : State} (hf : s.PortFree) (hw : s.env.wedge = none) :
    ∃ t, exec .spiInit s = .next t ∧ t.PortFree ∧ t.Serves := by
  obtain ⟨u, hu, hby⟩ := waitUntil_idleIfEnabled (s := s.acceptWord (encode .spiInit)) hw
  refine ⟨u.tickPos.configureSpi.tickPos.complete, exec_of_moved rfl hf ?_, rfl, rfl, hby.wedge hw⟩
  simp only [pseudocode, spiInitSteps, advance_cons, SeqStep.run, hu, Progress.andThen_moved, advance_nil]

/-- INIT is the device reset pulse and then the frames of INIT_SEQ (R140). -/
theorem advance_initSteps {s u : State} (hu : advance resetPulse s = .moved u) (hs : u.Serves) :
    ∃ t, advance initSteps s = .moved t ∧ Sends initFrames u t := by
  have cleared : Sends [] u (u.setSeq { u.seq with initIdx := 0#5 }).tickPos := sends_setSeq rfl rfl rfl
  obtain ⟨t, ht, hsends, -⟩ := advance_inits 26 0 (cleared.serves hs) rfl (by omega)
  refine ⟨t, ?_, ?_⟩
  · rw [initSteps, advance_append, advance_append, hu]
    exact ht
  · rw [initFrames, Config.initSeq, List.map_map, List.range_eq_range']
    exact cleared.trans hsends

/-- INIT configures the device, whatever it was before (R66, R140). -/
theorem exec_init_sink {s : State} (hf : s.PortFree) (hs : s.Serves) :
    ∃ t, exec .init s = .next t ∧ t.PortFree ∧ t.Serves ∧ t.sink = Sink.afterPulse.acceptAll initFrames := by
  obtain ⟨u, hu, -, -, hsink, hkept, -⟩ := advance_resetPulse (s.acceptWord (encode .init))
  obtain ⟨t, ht, hsends⟩ := advance_initSteps hu (hkept.serves hs)
  exact ⟨t.complete, exec_of_moved rfl hf ht, rfl, (complete_kept t).serves (hsends.serves (hkept.serves hs)),
    hsends.sink.trans (by rw [hsink])⟩

/-- The expected byte takes the device one byte further (R68). -/
theorem Sink.accept_expected {k : Sink} {n : Fin Config.nInit} (h : k.phase = .config n) :
    k.accept .command (Config.initSeqAt n.val) = Sink.configured n k := by
  simp only [Sink.accept, h, if_true]

/-- The bytes of INIT_SEQ from number `k` on make a device in Config(k) Ready and on, with all else as before (R68). -/
theorem Sink.acceptAll_initSeq (n k : Nat) (hn : k + n = 25) {d : Sink}
    (hd : d.phase = .config ⟨k, by simp only [Config.nInit]; omega⟩) :
    d.acceptAll ((List.range' k (n + 1)).map fun k => (.command, Config.initSeqAt k)) =
      { d with phase := .ready, on := some true } := by
  induction n generalizing k d with
  | zero =>
    obtain rfl : k = 25 := hn
    exact Sink.accept_expected hd
  | succ n ih =>
    have next := Sink.accept_expected hd
    rw [Sink.configured, dif_pos (by simp only [Config.nInit]; omega)] at next
    rw [List.range'_succ, List.map_cons, Sink.acceptAll, List.foldl_cons, next]
    exact ih (k + 1) (by omega) rfl

/-- Settles O31: SPI_INIT brings the transport into service, and INIT resets and configures the device. -/
theorem initMakesDeviceReady : Obligations.InitMakesDeviceReady := by
  intro s hf hw
  obtain ⟨u, hu, hfu, hsu⟩ := exec_spiInit_serves hf hw
  obtain ⟨t, ht, hft, hst, hsink⟩ := exec_init_sink hfu hsu
  have ready : t.sink = { Sink.afterPulse with phase := .ready, on := some true } := by
    rw [hsink, initFrames, Config.initSeq, List.map_map, List.range_eq_range']
    exact Sink.acceptAll_initSeq 25 0 rfl rfl
  refine ⟨t, by simp only [execAll, hu, ht], hft, hst, ?_⟩
  rw [ready]
  exact ⟨rfl, rfl, fun _ => rfl, rfl, rfl, rfl⟩

end Sys2Proof.Machine

/-! ## The encoding: decoder and encoder invert each other, and both follow the opcode table -/

namespace Sys2Proof

/-! ### An operand whose unused bits are 0 is the operand of its fields (R82) -/

@[simp] theorem cellOperand_unusedHigh (page : BitVec 3) (column : BitVec 7) :
    (cellOperand page column).extractLsb' 11 13 = 0#13 :=
  extract_high (0#13) (page ++ (0#1 ++ column))

@[simp] theorem cellOperand_unusedMid (page : BitVec 3) (column : BitVec 7) :
    (cellOperand page column).extractLsb' 7 1 = 0#1 :=
  (extract_within (0#13) (page ++ (0#1 ++ column)) (by omega)).trans
    ((extract_within page (0#1 ++ column) (by omega)).trans (extract_high (0#1) column))

@[simp] theorem invOperand_unused (inv : Bool) : (invOperand inv).extractLsb' 1 23 = 0#23 :=
  extract_high (0#23) (BitVec.ofBool inv)

@[simp] theorem buttonOperand_unused (i : BitVec 2) : (buttonOperand i).extractLsb' 2 22 = 0#22 :=
  extract_high (0#22) i

theorem opWord_fields (w : OpWord) : opWord (opcodeOf w) (operandOf w) = w :=
  BitVec.extractLsb'_append_extractLsb' (w := 8) (len := 24)

section
variable {x : BitVec 24}

theorem byteOperand_of_unused (h : x.extractLsb' 8 16 = 0#16) : byteOperand (x.extractLsb' 0 8) = x := by
  rw [byteOperand, ← h]
  exact BitVec.extractLsb'_append_extractLsb' (w := 16) (len := 8)

theorem cellOperand_of_unused (hhigh : x.extractLsb' 11 13 = 0#13) (hmid : x.extractLsb' 7 1 = 0#1) :
    cellOperand (x.extractLsb' 8 3) (x.extractLsb' 0 7) = x := by
  rw [cellOperand, ← hhigh, ← hmid, BitVec.extractLsb'_append_extractLsb'_eq_extractLsb' (by rfl),
    BitVec.extractLsb'_append_extractLsb'_eq_extractLsb' (by rfl)]
  exact BitVec.extractLsb'_append_extractLsb' (w := 13) (len := 11)

theorem invOperand_of_unused (h : x.extractLsb' 1 23 = 0#23) : invOperand (x.extractLsb' 0 1 == 1#1) = x := by
  have hbit : ∀ b : BitVec 1, BitVec.ofBool (b == 1#1) = b := by decide
  rw [invOperand, ← h, hbit]
  exact BitVec.extractLsb'_append_extractLsb' (w := 23) (len := 1)

theorem buttonOperand_of_unused (h : x.extractLsb' 2 22 = 0#22) : buttonOperand (x.extractLsb' 0 2) = x := by
  rw [buttonOperand, ← h]
  exact BitVec.extractLsb'_append_extractLsb' (w := 22) (len := 2)

end

/-! ### The round trips -/

@[simp] theorem decode_opWord (opc : BitVec 8) (x : BitVec 24) : decode (opWord opc x) = decodeFields opc x := by
  rw [decode, opcodeOf_opWord, operandOf_opWord]

theorem decode_encode {i : Instr} (hi : i.wf = true) : decode (encode i) = .ok i := by
  cases i with
  | spiInit | read | reset | init | clear => rfl
  | write b | command b | data b | selectPage page column | render inv => simp [encode, decodeFields, whenUnusedZero]
  | pollEdge b =>
    have hb : Config.hasButton b = true := hi
    simp [encode, decodeFields, hb]
  | setSettle n => simp [encode, decodeFields]

/-- A row whose word is the word of its operation gives back that word. -/
theorem encode_of_whenUnusedZero {ok : Bool} {opc : BitVec 8} {x : BitVec 24} {i j : Instr}
    (h : whenUnusedZero ok opc x j = .ok i) (hj : ok = true → encode j = opWord opc x) (hwf : j.wf = true) :
    encode i = opWord opc x ∧ i.wf = true := by
  cases ok with
  | true =>
    cases h
    exact ⟨hj rfl, hwf⟩
  | false => cases h

theorem encode_of_decodeFields {opc : BitVec 8} {x : BitVec 24} {i : Instr} (h : decodeFields opc x = .ok i) :
    encode i = opWord opc x ∧ i.wf = true := by
  have bare {opc : BitVec 8} (hx : (x == 0#24) = true) : opWord opc 0#24 = opWord opc x := by rw [eq_of_beq hx]
  have byte {opc : BitVec 8} (hx : (x.extractLsb' 8 16 == 0#16) = true) :
      opWord opc (byteOperand (x.extractLsb' 0 8)) = opWord opc x := by rw [byteOperand_of_unused (eq_of_beq hx)]
  unfold decodeFields at h
  rcases ite_eq_iff.mp h with ⟨rfl, h⟩ | ⟨-, h⟩
  · -- SPI_INIT
    exact encode_of_whenUnusedZero h bare rfl
  rcases ite_eq_iff.mp h with ⟨rfl, h⟩ | ⟨-, h⟩
  · -- WRITE
    exact encode_of_whenUnusedZero h byte rfl
  rcases ite_eq_iff.mp h with ⟨rfl, h⟩ | ⟨-, h⟩
  · -- READ
    exact encode_of_whenUnusedZero h bare rfl
  rcases ite_eq_iff.mp h with ⟨rfl, h⟩ | ⟨-, h⟩
  · -- RESET
    exact encode_of_whenUnusedZero h bare rfl
  rcases ite_eq_iff.mp h with ⟨rfl, h⟩ | ⟨-, h⟩
  · -- COMMAND
    exact encode_of_whenUnusedZero h byte rfl
  rcases ite_eq_iff.mp h with ⟨rfl, h⟩ | ⟨-, h⟩
  · -- DATA
    exact encode_of_whenUnusedZero h byte rfl
  rcases ite_eq_iff.mp h with ⟨rfl, h⟩ | ⟨-, h⟩
  · -- INIT
    exact encode_of_whenUnusedZero h bare rfl
  rcases ite_eq_iff.mp h with ⟨rfl, h⟩ | ⟨-, h⟩
  · -- CLEAR
    exact encode_of_whenUnusedZero h bare rfl
  rcases ite_eq_iff.mp h with ⟨rfl, h⟩ | ⟨-, h⟩
  · -- SELECT_PAGE
    refine encode_of_whenUnusedZero h (fun hx => ?_) rfl
    obtain ⟨hhigh, hmid⟩ := Bool.and_eq_true_iff.mp hx
    rw [encode, cellOperand_of_unused (eq_of_beq hhigh) (eq_of_beq hmid)]
  rcases ite_eq_iff.mp h with ⟨rfl, h⟩ | ⟨-, h⟩
  · -- RENDER
    refine encode_of_whenUnusedZero h (fun hx => ?_) rfl
    rw [encode, invOperand_of_unused (eq_of_beq hx)]
  rcases ite_eq_iff.mp h with ⟨rfl, h⟩ | ⟨-, h⟩
  · -- POLL_EDGE
    rcases ite_eq_iff.mp h with ⟨hx, h⟩ | ⟨-, ⟨⟩⟩
    rcases ite_eq_iff.mp h with ⟨hb, ⟨⟩⟩ | ⟨-, ⟨⟩⟩
    exact ⟨by rw [encode, buttonOperand_of_unused (eq_of_beq hx)], hb⟩
  rcases ite_eq_iff.mp h with ⟨rfl, ⟨⟩⟩ | ⟨-, ⟨⟩⟩
  exact ⟨rfl, rfl⟩

/-- A word decodes to an operation exactly when it is its word and the operation is well formed (R82, R83). -/
theorem decode_eq_ok_iff {w : OpWord} {i : Instr} : decode w = .ok i ↔ encode i = w ∧ i.wf = true := by
  constructor
  · intro h
    obtain ⟨hw, hi⟩ := encode_of_decodeFields h
    exact ⟨hw.trans (opWord_fields w), hi⟩
  · rintro ⟨rfl, hi⟩
    exact decode_encode hi

/-- Settles O1, row by row: every field stands in the operand where the decoder reads it. -/
theorem decodeEncodeRoundTrip : Obligations.DecodeEncodeRoundTrip := fun _ => decode_encode

/-- Settles O2: the row that accepts a word has checked every bit that is not of a field. -/
theorem encodeDecodeRoundTrip : Obligations.EncodeDecodeRoundTrip := fun _ _ => decode_eq_ok_iff.mp

/-! ### The opcode table -/

/-- The word of every operation is of the row that bears its name. -/
theorem tableRow (i : Instr) : Laws.TableRow.Statement i := by
  cases i with
  | spiInit => exact Laws.TableRow.spiInit
  | write b => exact Laws.TableRow.write b
  | read => exact Laws.TableRow.read
  | reset => exact Laws.TableRow.reset
  | command b => exact Laws.TableRow.command b
  | data b => exact Laws.TableRow.data b
  | init => exact Laws.TableRow.init
  | clear => exact Laws.TableRow.clear
  | selectPage page column => exact Laws.TableRow.selectPage page column
  | render inv => exact Laws.TableRow.render inv
  | pollEdge b => exact Laws.TableRow.pollEdge b
  | setSettle n => exact Laws.TableRow.setSettle n

/-- A word that decodes is of the row named as its operation is. -/
theorem row_of_decode {w : OpWord} {i : Instr} (h : decode w = .ok i) :
    ∃ r ∈ opTable, w &&& r.mask = r.pattern ∧ r.mnemonic = i.mnemonic := by
  obtain ⟨rfl, -⟩ := decode_eq_ok_iff.mp h
  obtain ⟨r, hr, hname, hmatch, -⟩ := tableRow i
  exact ⟨r, hr, hmatch, hname⟩

/-- Where the mask is all ones a word of the row is as the match is. -/
theorem extract_of_masked {w mask pattern : OpWord} (h : w &&& mask = pattern) {s n : Nat}
    (hm : mask.extractLsb' s n = BitVec.allOnes n) : w.extractLsb' s n = pattern.extractLsb' s n := by
  rw [← h, BitVec.extractLsb'_and, hm, BitVec.and_allOnes]

/-- The operand's bits as the match has them, where the mask is all ones. -/
theorem operand_of_masked {w mask pattern : OpWord} (h : w &&& mask = pattern) {s n : Nat} (hn : s + n ≤ 24)
    (hm : mask.extractLsb' s n = BitVec.allOnes n) : (operandOf w).extractLsb' s n = pattern.extractLsb' s n :=
  (BitVec.extractLsb'_extractLsb'_of_le hn).trans (extract_of_masked h hm)

/-- A word of a row is the word of an operation of the row's name, and a well-formed one but for an absent button. -/
theorem exists_encode_of_row {w : OpWord} {r : OpRow} (hr : r ∈ opTable) (h : w &&& r.mask = r.pattern) :
    ∃ i, encode i = w ∧ i.mnemonic = r.mnemonic ∧
      ((r.mnemonic = "POLL_EDGE" → (w.extractLsb' 0 2).toNat < Config.nBtn) → i.wf = true) := by
  have hopc : opcodeOf w = opcodeOf r.pattern :=
    extract_of_masked h ((by decide : ∀ r ∈ opTable, r.mask.extractLsb' 24 8 = BitVec.allOnes 8) r hr)
  have word {x : BitVec 24} (hx : x = operandOf w) : opWord (opcodeOf r.pattern) x = w := by
    rw [hx, ← hopc, opWord_fields]
  have bare (hm : r.mask.extractLsb' 0 24 = BitVec.allOnes 24) (hp : r.pattern.extractLsb' 0 24 = 0#24) :
      opWord (opcodeOf r.pattern) 0#24 = w :=
    word ((extract_of_masked h hm).trans hp).symm
  have byte (hm : r.mask.extractLsb' 8 16 = BitVec.allOnes 16) (hp : r.pattern.extractLsb' 8 16 = 0#16) :
      opWord (opcodeOf r.pattern) (byteOperand ((operandOf w).extractLsb' 0 8)) = w :=
    word (byteOperand_of_unused ((operand_of_masked h (by omega) hm).trans hp))
  simp only [opTable, opTableLow, opTableHigh, List.cons_append, List.nil_append, List.mem_cons, List.not_mem_nil,
    or_false] at hr
  rcases hr with rfl | rfl | rfl | rfl | rfl | rfl | rfl | rfl | rfl | rfl | rfl | rfl
  · exact ⟨.spiInit, bare (by decide) (by decide), rfl, fun _ => rfl⟩
  · exact ⟨.write _, byte (by decide) (by decide), rfl, fun _ => rfl⟩
  · exact ⟨.read, bare (by decide) (by decide), rfl, fun _ => rfl⟩
  · exact ⟨.reset, bare (by decide) (by decide), rfl, fun _ => rfl⟩
  · exact ⟨.command _, byte (by decide) (by decide), rfl, fun _ => rfl⟩
  · exact ⟨.data _, byte (by decide) (by decide), rfl, fun _ => rfl⟩
  · exact ⟨.init, bare (by decide) (by decide), rfl, fun _ => rfl⟩
  · exact ⟨.clear, bare (by decide) (by decide), rfl, fun _ => rfl⟩
  · have hhigh := operand_of_masked h (s := 11) (n := 13) (by omega) (by decide)
    have hmid := operand_of_masked h (s := 7) (n := 1) (by omega) (by decide)
    exact ⟨.selectPage _ _, word (cellOperand_of_unused hhigh hmid), rfl, fun _ => rfl⟩
  · have hunused := operand_of_masked h (s := 1) (n := 23) (by omega) (by decide)
    exact ⟨.render _, word (invOperand_of_unused hunused), rfl, fun _ => rfl⟩
  · have hunused := operand_of_masked h (s := 2) (n := 22) (by omega) (by decide)
    refine ⟨.pollEdge _, word (buttonOperand_of_unused hunused), rfl, fun hbtn => (Machine.hasButton_iff _).mpr ?_⟩
    rw [operandOf, BitVec.extractLsb'_extractLsb'_of_le (by omega)]
    exact hbtn rfl
  · exact ⟨.setSettle (operandOf w), word rfl, rfl, fun _ => rfl⟩

/-- Settles O3: a word that decodes is of its operation's row; a word of a row is the word of such an operation. -/
theorem decodeFollowsOpcodeTable : Obligations.DecodeFollowsOpcodeTable := by
  intro w
  refine ⟨fun i => row_of_decode, fun r hr hmatch hbtn => ?_⟩
  obtain ⟨i, hword, hname, hwf⟩ := exists_encode_of_row hr hmatch
  exact ⟨i, decode_eq_ok_iff.mpr ⟨hword, hwf hbtn⟩, hname⟩

end Sys2Proof

/-! ## The operation port: a presented word is run, refused when it is reserved, and left alone while OP_BUSY is 1 -/

namespace Sys2Proof.Machine

/-! ### A free port -/

/-- On a free port the next word of the queue is taken from it and run (R5, R81). -/
theorem step_of_presented {s : State} {w : OpWord} {rest : List OpWord} (hf : s.PortFree)
    (hq : s.host.queue = w :: rest) : step s = execWord w { s with host := { s.host with queue := rest } } := by
  have hbusy : s.seq.opBusy = false := hf
  simp only [step, hbusy, Bool.false_eq_true, if_false, State.fetchWord, hq]

theorem execWord_of_ok {w : OpWord} {i : Instr} (h : decode w = .ok i) (s : State) : execWord w s = exec i s := by
  rw [execWord, h]

theorem execWord_of_error {w : OpWord} {e : DecodeError} (h : decode w = .error e) (s : State) :
    execWord w s = .refused (.reservedWord e) := by
  rw [execWord, h]

/-- Settles O6: the word is taken, decodes, and its operation is run. -/
theorem stepRunsPresentedWord : Obligations.StepRunsPresentedWord := by
  intro s w rest i hf hq hd
  rw [step_of_presented hf hq, execWord_of_ok hd]

/-! ### Reserved words -/

theorem decode_error_of_not_ok {w : OpWord} (h : ∀ i, decode w ≠ .ok i) : ∃ e, decode w = .error e := by
  cases hd : decode w with
  | ok i => exact absurd hd (h i)
  | error e => exact ⟨e, rfl⟩

/-- The opcode 0x30 is POLL_EDGE's alone. -/
theorem eq_pollEdge_of_opcode {i : Instr} (h : opcodeOf (encode i) = 0x30#8) : ∃ b, i = .pollEdge b := by
  cases i with
  | pollEdge b => exact ⟨b, rfl⟩
  | _ => simp [encode] at h

/-- A POLL_EDGE word that decodes names a button the build has (R83). -/
theorem button_lt_of_decode {w : OpWord} {i : Instr} (hd : decode w = .ok i) (hopc : w.extractLsb' 24 8 = 0x30#8) :
    (w.extractLsb' 0 2).toNat < Config.nBtn := by
  obtain ⟨rfl, hwf⟩ := decode_eq_ok_iff.mp hd
  obtain ⟨b, rfl⟩ := eq_pollEdge_of_opcode hopc
  have hb : (encode (.pollEdge b)).extractLsb' 0 2 = b :=
    (extract_within 0x30#8 (buttonOperand b) (by omega)).trans (buttonOperand_button b)
  rw [hb]
  exact (hasButton_iff b).mp hwf

theorem exec_pollEdge_absent {i : BitVec 2} (h : Config.nBtn ≤ i.toNat) (s : State) :
    exec (.pollEdge i) s = .refused (.reservedWord (.absentButton i)) :=
  if_neg fun hb => absurd ((hasButton_iff i).mp hb) (by omega)

/-- Settles O4: a word that decodes is of a row, and of POLL_EDGE's only with a button the build has. -/
theorem reservedWordsAreRefused : Obligations.ReservedWordsAreRefused := by
  refine ⟨fun s w rest hf hq hreserved => ?_, fun i s h => exec_pollEdge_absent h s⟩
  have hnot : ∀ i, decode w ≠ .ok i := by
    intro i hd
    rcases hreserved with hrows | ⟨hopc, hbtn⟩
    · obtain ⟨r, hr, hmatch, -⟩ := row_of_decode hd
      exact hrows r hr hmatch
    · exact absurd (button_lt_of_decode hd hopc) (by omega)
  obtain ⟨e, he⟩ := decode_error_of_not_ok hnot
  exact ⟨e, (step_of_presented hf hq).trans (execWord_of_error he _)⟩

/-! ### A busy port -/

/-- The step of a busy block is the sequencer's, and the sequencer leaves the host alone (R203). -/
theorem step_host_of_busy {s t : State} (hb : s.seq.opBusy = true) (h : step s = .next t) : t.host = s.host := by
  have notFree : ¬ s.PortFree := fun hf => absurd (hb.symm.trans hf) (by decide)
  rcases step_next h with ⟨-, steps, -, rfl⟩ | ⟨hf, -⟩ | ⟨hf, -⟩
  · exact (seqKeeps_host (· = s.host)).finish _ rfl
  · exact absurd hf notFree
  · exact absurd hf notFree

/-- Settles O7: a busy block goes on with its own operation, and one presented to it is not accepted. -/
theorem busyPortBlocksHost : Obligations.BusyPortBlocksHost :=
  fun s hb => ⟨fun _ => step_host_of_busy hb, fun i hi => by rw [exec_of_wf hi, operation_of_busy hb]⟩

end Sys2Proof.Machine

/-! ## The composite operations: SELECT_PAGE, CLEAR, INIT and RENDER against their expansions -/

namespace Sys2Proof.Machine

/-! ### Sequences of operations that send frames -/

theorem execAll_cons {i : Instr} {is : List Instr} {s t : State} (h : exec i s = .next t) :
    execAll (i :: is) s = execAll is t := by
  rw [execAll, h]

theorem execAll_singleton (i : Instr) (s : State) : execAll [i] s = exec i s := by
  rw [execAll]
  cases exec i s <;> rfl

theorem execAll_append {is js : List Instr} {s t : State} (h : execAll is s = .next t) :
    execAll (is ++ js) s = execAll js t := by
  induction is generalizing s with
  | nil => cases h; rfl
  | cons i is ih =>
    rw [List.cons_append, execAll]
    rw [execAll] at h
    split at h
    · exact ih h
    · cases h
    · cases h

/-- From `s` to `t` operations ran to completion that sent exactly the frames `fs`, and the transport still serves. -/
structure RanFrames (fs : List Frame) (s t : State) : Prop where
  free : t.PortFree
  serves : t.Serves
  bytes : t.byteTrace = s.byteTrace ++ framesEvents fs
  sink : t.sink = s.sink.acceptAll fs
  lines : t.lines = linesAfter fs s.lines

theorem RanFrames.trans {fs gs : List Frame} {s t u : State} (h : RanFrames fs s t) (g : RanFrames gs t u) :
    RanFrames (fs ++ gs) s u where
  free := g.free
  serves := g.serves
  bytes := by rw [g.bytes, h.bytes, framesEvents, framesEvents, framesEvents, List.flatMap_append, List.append_assoc]
  sink := by rw [g.sink, h.sink, Sink.acceptAll_append]
  lines := by rw [g.lines, h.lines, linesAfter, linesAfter, linesAfter, List.foldl_append]

/-- An operation that sent frames, the last of them of its kind, is a run of those frames. -/
theorem SentFrames.ranFrames {w : OpWord} {fs : List Frame} {f : Frame} {s t : State} (hlast : fs.getLast? = some f)
    (h : SentFrames w fs f.1 s t) (hs : s.Serves) : RanFrames fs s t where
  free := h.completed.free
  serves := h.kept.serves hs
  bytes := h.events
  sink := h.sink
  lines := h.lines.trans (linesAfter_of_getLast? hlast _).symm

/-- With a free port and a serving transport the operations `is` complete one after the other, sending exactly `fs`. -/
def SendInOrder (is : List Instr) (fs : List Frame) : Prop :=
  ∀ s : State, s.PortFree → s.Serves → ∃ t, execAll is s = .next t ∧ RanFrames fs s t

namespace SendInOrder

theorem nil : SendInOrder [] [] := fun s hf hs => ⟨s, rfl, hf, hs, (List.append_nil _).symm, rfl, rfl⟩

theorem append {is js : List Instr} {fs gs : List Frame} (h : SendInOrder is fs) (g : SendInOrder js gs) :
    SendInOrder (is ++ js) (fs ++ gs) := by
  intro s hf hs
  obtain ⟨t, ht, rt⟩ := h s hf hs
  obtain ⟨u, hu, ru⟩ := g t rt.free rt.serves
  exact ⟨u, (execAll_append ht).trans hu, rt.trans ru⟩

theorem flatMap {α : Type} {is : α → List Instr} {fs : α → List Frame} {l : List α}
    (h : ∀ a ∈ l, SendInOrder (is a) (fs a)) : SendInOrder (l.flatMap is) (l.flatMap fs) := by
  induction l with
  | nil => exact nil
  | cons a l ih => exact (h a List.mem_cons_self).append (ih fun b hb => h b (List.mem_cons_of_mem a hb))

theorem map {α : Type} {i : α → Instr} {f : α → Frame} {l : List α} (h : ∀ a ∈ l, SendInOrder [i a] [f a]) :
    SendInOrder (l.map i) (l.map f) := by
  rw [List.map_eq_flatMap, List.map_eq_flatMap]
  exact flatMap h

theorem one {i : Instr} {fs : List Frame} {f : Frame} (hlast : fs.getLast? = some f)
    (h : ∀ s : State, s.PortFree → s.Serves → ∃ t, exec i s = .next t ∧ SentFrames (encode i) fs f.1 s t) :
    SendInOrder [i] fs := by
  intro s hf hs
  obtain ⟨t, ht, sent⟩ := h s hf hs
  exact ⟨t, (execAll_singleton i s).trans ht, sent.ranFrames hlast hs⟩

theorem command (b : Byte) : SendInOrder [.command b] [(.command, b)] :=
  one (f := (.command, b)) rfl fun _ hf hs => by
    obtain ⟨t, ht, sent, -⟩ := exec_command b hf hs
    exact ⟨t, ht, sent⟩

theorem data (b : Byte) : SendInOrder [.data b] [(.data, b)] :=
  one (f := (.data, b)) rfl fun _ hf hs => by
    obtain ⟨t, ht, sent, -⟩ := exec_data b hf hs
    exact ⟨t, ht, sent⟩

theorem selectPage (page : BitVec 3) (column : BitVec 7) :
    SendInOrder [.selectPage page column] (selectFrames page column) :=
  one (f := (.command, _)) rfl fun _ hf hs => by
    obtain ⟨t, ht, sent, -⟩ := exec_selectPage page column hf hs
    exact ⟨t, ht, sent⟩

theorem clear : SendInOrder [.clear] (screenFrames fun _ _ => 0x00#8) :=
  one (screenFrames_getLast? _) fun _ hf hs => by
    obtain ⟨t, ht, sent, -⟩ := exec_clear hf hs
    exact ⟨t, ht, sent⟩

theorem render (inv : Bool) : SendInOrder [.render inv] (screenFrames (pattern inv)) :=
  one (screenFrames_getLast? _) fun _ hf hs => by
    obtain ⟨t, ht, sent, -⟩ := exec_render inv hf hs
    exact ⟨t, ht, sent⟩

end SendInOrder

/-! ### The expansions -/

theorem expansion_selectPage (page : BitVec 3) (column : BitVec 7) :
    SendInOrder (expansionOf (.selectPage page column)) (selectFrames page column) :=
  (SendInOrder.command _).append ((SendInOrder.command _).append (SendInOrder.command _))

/-- The page select and the data operations of one page (R125, R152). -/
theorem expansion_page (f : Nat → Nat → Byte) {page : Nat} (hp : page < 8) :
    SendInOrder (.selectPage (BitVec.ofNat 3 page) 0#7 :: (List.range 128).map fun c => .data (f page c))
      (pageFrames f page) := by
  have frames := pageFrames_eq f (BitVec.ofNat 3 page)
  rw [BitVec.toNat_ofNat, Nat.mod_eq_of_lt hp, ← List.range_eq_range'] at frames
  rw [frames, ← List.singleton_append]
  exact (SendInOrder.selectPage _ _).append (.map fun c _ => .data (f page c))

theorem expansion_clear : SendInOrder (expansionOf .clear) (screenFrames fun _ _ => 0x00#8) := by
  have zeros : List.replicate 128 (Instr.data 0x00#8) = (List.range 128).map fun _ => .data 0x00#8 := by
    rw [List.map_const', List.length_range]
  rw [expansionOf, zeros]
  exact .flatMap fun _ hp => expansion_page (fun _ _ => 0x00#8) (List.mem_range.mp hp)

theorem expansion_render (inv : Bool) : SendInOrder (expansionOf (.render inv)) (screenFrames (pattern inv)) :=
  .flatMap fun _ hp => expansion_page (pattern inv) (List.mem_range.mp hp)

/-! ### What an observer of the byte level, of the device and of the lines can tell apart -/

/-- No difference in the byte-level trace, the sink and the lines (R94). -/
structure SameOutside (s t : State) : Prop where
  bytes : s.byteTrace = t.byteTrace
  sink : s.sink = t.sink
  lines : s.lines = t.lines

theorem RanFrames.sameOutside {fs : List Frame} {s s' t t' : State} (h : RanFrames fs s t) (h' : RanFrames fs s' t')
    (hss : SameOutside s s') : SameOutside t t' where
  bytes := by rw [h.bytes, h'.bytes, hss.bytes]
  sink := by rw [h.sink, h'.sink, hss.sink]
  lines := by rw [h.lines, h'.lines, hss.lines]

/-- The operation and its expansion both complete, and no observer tells them apart (R94). -/
def EqualsExpansion (i : Instr) (s : State) : Prop :=
  ∃ t u, exec i s = .next t ∧ execAll (expansionOf i) s = .next u ∧ t.PortFree ∧ u.PortFree ∧ SameOutside t u

/-- An operation whose expansion sends the same frames. -/
theorem SendInOrder.equalsExpansion {i : Instr} {fs : List Frame} (h : SendInOrder [i] fs)
    (g : SendInOrder (expansionOf i) fs) {s : State} (hf : s.PortFree) (hs : s.Serves) : EqualsExpansion i s := by
  obtain ⟨t, ht, rt⟩ := h s hf hs
  obtain ⟨u, hu, ru⟩ := g s hf hs
  rw [execAll_singleton] at ht
  exact ⟨t, u, ht, hu, rt.free, ru.free, rt.sameOutside ru ⟨rfl, rfl, rfl⟩⟩

/-! ### INIT -/

/-- `t` is `s` after the device reset pulse, as far as an observer can tell (R66, R123). -/
structure Pulsed (s t : State) : Prop where
  bytes : t.byteTrace = s.byteTrace ++ resetEvents
  sink : t.sink = Sink.afterPulse
  lines : t.lines = { s.lines with rst := .high }

theorem Pulsed.sameOutside {s t u : State} (h : Pulsed s t) (g : Pulsed s u) : SameOutside t u where
  bytes := by rw [h.bytes, g.bytes]
  sink := by rw [h.sink, g.sink]
  lines := by rw [h.lines, g.lines]

theorem exec_reset {s : State} (hf : s.PortFree) :
    ∃ t, exec .reset s = .next t ∧ t.PortFree ∧ Kept s t ∧ Pulsed s t := by
  obtain ⟨u, hu, bytes, lines, sink, kept, -⟩ := advance_resetPulse (s.acceptWord (encode .reset))
  exact ⟨u.complete, exec_of_moved rfl hf hu, rfl, ((accept_kept _ s).trans kept).trans (complete_kept u),
    bytes, sink, lines⟩

/-- INIT sends the frames of INIT_SEQ from a state the reset pulse has reached (R140). -/
theorem exec_init {s : State} (hf : s.PortFree) (hs : s.Serves) :
    ∃ u t, exec .init s = .next t ∧ Pulsed s u ∧ RanFrames initFrames u t := by
  obtain ⟨u, hu, bytes, lines, sink, kept, -⟩ := advance_resetPulse (s.acceptWord (encode .init))
  have hus : u.Serves := kept.serves hs
  obtain ⟨t, ht, sends⟩ := advance_initSteps hu hus
  exact ⟨u, t.complete, exec_of_moved rfl hf ht, ⟨bytes, sink, lines⟩,
    rfl, (complete_kept t).serves (sends.serves hus), sends.bytes, sends.sink, sends.lines⟩

theorem init_equalsExpansion {s : State} (hf : s.PortFree) (hs : s.Serves) : EqualsExpansion .init s := by
  obtain ⟨u, t, ht, pu, rt⟩ := exec_init hf hs
  obtain ⟨u', hu', hfu', kept, pu'⟩ := exec_reset hf
  have table : SendInOrder (Config.initSeq.map .command) initFrames := .map fun b _ => .command b
  obtain ⟨t', ht', rt'⟩ := table u' hfu' (kept.serves hs)
  exact ⟨t, t', ht, (execAll_cons hu').trans ht', rt.free, rt'.free, rt.sameOutside rt' (pu.sameOutside pu')⟩

/-- Settles O29: the three composites that only send frames send those of their expansions, and INIT and its expansion
do so after the same pulse. -/
theorem compositesEqualExpansions : Obligations.CompositesEqualExpansions := by
  intro i s hf hs hi
  have h : EqualsExpansion i s := by
    rcases hi with ⟨page, column, rfl⟩ | rfl | rfl | ⟨inv, rfl⟩
    · exact (SendInOrder.selectPage page column).equalsExpansion (expansion_selectPage page column) hf hs
    · exact SendInOrder.clear.equalsExpansion expansion_clear hf hs
    · exact init_equalsExpansion hf hs
    · exact (SendInOrder.render inv).equalsExpansion (expansion_render inv) hf hs
  obtain ⟨t, u, ht, hu, hft, hfu, same⟩ := h
  exact ⟨t, u, ht, hu, hft, hfu, same.bytes, same.sink, same.lines⟩

end Sys2Proof.Machine

/-! ## A byte on the wire: seventeen steps of the shifter, bit by bit -/

namespace Sys2Proof.Machine

/-! ### Runs of an idle block -/

/-- A run and one step more. -/
theorem core_run_succ {M : Host.Core} {n : Nat} {s t u : M.State} (h : M.run n s = .next t)
    (hstep : M.step t = .next u) : M.run (n + 1) s = .next u := by
  induction n generalizing s with
  | zero =>
    cases h
    simp only [Host.Core.run, hstep]
  | succ n ih =>
    rw [Host.Core.run] at h ⊢
    split at h
    · exact ih h
    · cases h
    · cases h

theorem run_succ {n : Nat} {s t u : State} (h : Sys2Proof.core.run n s = .next t) (hstep : step t = .next u) :
    Sys2Proof.core.run (n + 1) s = .next u :=
  core_run_succ (M := Sys2Proof.core) h hstep

/-- With nothing else to do a step is the enabled step of the shifter (R208). -/
theorem step_of_shifterActive {s : State} (h : s.OnlyShifter) (ha : s.shifterActive = true) :
    step s = .next s.shifterStep := by
  obtain ⟨hf, hq, hl⟩ := h
  have hbusy : s.seq.opBusy = false := hf
  simp only [step, hbusy, Bool.false_eq_true, if_false, State.fetchWord, hq, State.idleStep, hl, ha, if_true]

theorem ByShifter.onlyShifter {s t : State} (h : ByShifter s t) (hs : s.OnlyShifter) : t.OnlyShifter := by
  obtain ⟨hf, hq, hl⟩ := hs
  refine ⟨?_, ?_, ?_⟩
  · rw [State.PortFree, h.seq]; exact hf
  · rw [h.host]; exact hq
  · rw [h.host]; exact hl

/-! ### The rules of a shifter that never stops -/

theorem spendStep_of_fair {s : State} (h : s.env.wedge = none) : s.spendStep = s := by
  rw [State.spendStep, h]

section
variable {s : State} (ho : s.OnlyShifter) (hw : s.env.wedge = none)
include ho hw

/-- R105. -/
theorem step_load (hen : s.spi.cfg.spiEn = true) (hb : s.spi.bitcnt = 0#4) (ht : s.spi.txe = false) :
    step s = .next s.shifterLoad := by
  have hl : s.spi.canLoad = true := by simp [Transport.canLoad, hen, hb, ht]
  have ha : s.shifterActive = true := by simp [State.shifterActive, Environment.stopped, hl, hw]
  rw [step_of_shifterActive ho ha, State.shifterStep, if_pos hl, spendStep_of_fair (s := s.shifterLoad) hw]

/-- R106. -/
theorem step_lead (hb : s.spi.bitcnt ≠ 0#4) (hh : s.spi.half = false) : step s = .next s.shifterLead := by
  have hl : s.spi.canLead = true := by simp [Transport.canLead, hb, hh]
  have hn : ¬ s.spi.canLoad = true := by simp [Transport.canLoad, hb]
  have ha : s.shifterActive = true := by simp [State.shifterActive, Environment.stopped, hl, hw]
  rw [step_of_shifterActive ho ha, State.shifterStep, if_neg hn, if_pos hl, spendStep_of_fair (s := s.shifterLead) hw]

/-- R107. -/
theorem step_trail (hb : s.spi.bitcnt ≠ 0#4) (hh : s.spi.half = true) : step s = .next s.shifterTrail := by
  have ht : s.spi.canTrail = true := by simp [Transport.canTrail, hb, hh]
  have hn : ¬ s.spi.canLoad = true := by simp [Transport.canLoad, hb]
  have hn' : ¬ s.spi.canLead = true := by simp [Transport.canLead, hh]
  have ha : s.shifterActive = true := by simp [State.shifterActive, Environment.stopped, ht, hw]
  have hw' : s.shifterTrail.env.wedge = none := (shifterTrail_byShifter s).wedge hw
  rw [step_of_shifterActive ho ha, State.shifterStep, if_neg hn, if_neg hn', spendStep_of_fair hw']

end

/-! ### The trailing edge, field by field (R107, R108) -/

theorem shifterTrail_mosi (s : State) : s.shifterTrail.spi.mosi = s.spi.mosi := by
  simp only [State.shifterTrail, State.byteComplete]
  split <;> (try split) <;> simp

theorem shifterTrail_shift (s : State) :
    s.shifterTrail.spi.shift = s.spi.shift.extractLsb' 0 7 ++ BitVec.ofBool s.misoLevel := by
  simp only [State.shifterTrail, State.byteComplete]
  split <;> (try split) <;> simp

theorem shifterTrail_miso (s : State) : s.shifterTrail.env.miso = s.env.miso.tail := by
  have h : s.afterMiso.env.miso = s.env.miso.tail := by
    unfold State.afterMiso
    split <;> simp [*]
  simp only [State.shifterTrail, State.byteComplete]
  split <;> (try split) <;> simp [h]

/-- Before the last bit of a byte a trailing edge receives nothing (R107). -/
theorem shifterTrail_inside {s : State} (h : s.spi.bitcnt - 1#4 ≠ 0#4) :
    s.shifterTrail.spi.rxne = s.spi.rxne ∧ s.shifterTrail.trace = s.trace := by
  simp only [State.shifterTrail, State.afterMiso_spi, if_neg h, State.afterMiso_trace, and_self]

/-- The last trailing edge of a byte fills an empty RXBUF (R108). -/
theorem shifterTrail_last {s : State} (h : s.spi.bitcnt - 1#4 = 0#4) (hr : s.spi.rxne = false) :
    s.shifterTrail.spi.rxne = true ∧ s.shifterTrail.spi.rxbuf = s.shifterTrail.spi.shift ∧
      s.shifterTrail.trace = s.trace ++ [.rx s.shifterTrail.spi.shift] := by
  simp [State.shifterTrail, State.byteComplete, h, hr]

/-- A trailing edge moves every bit one place up and takes the new one in at the end. -/
theorem getMsbD_shiftIn (x : Byte) (l : Level) {j : Nat} (hj : j < 8) :
    (x.extractLsb' 0 7 ++ BitVec.ofBool l).getMsbD j = if j = 7 then l else x.getMsbD (j + 1) := by
  rw [BitVec.getMsbD_append, BitVec.getMsbD_ofBool, BitVec.getMsbD_extractLsb']
  by_cases h7 : j = 7
  · simp [h7]
  · have hlt : j < 7 := by omega
    have hplace : 8 - (0 + 7 - j) = j + 1 := by omega
    have hle : 0 + 7 - j ≤ 8 := by omega
    simp [h7, hlt, hplace, hle]

/-! ### The bits of a byte and the levels of MISO as one stream -/

/-- The bits a byte on its way leaves on MOSI, most significant first, and after them the levels MISO shows (R86). -/
def bitStream (b : Byte) (miso : List Level) : List Level := (List.range 8).map b.getMsbD ++ miso

theorem bitStream_out (b : Byte) (miso : List Level) {k : Nat} (hk : k < 8) :
    (bitStream b miso)[k]? = some (b.getMsbD k) := by
  rw [bitStream, List.getElem?_append_left (by simpa using hk)]
  simp [hk]

theorem bitStream_in (b : Byte) (miso : List Level) (k : Nat) : (bitStream b miso)[k + 8]? = miso[k]? := by
  rw [bitStream, List.getElem?_append_right (by simp)]
  simp

/-- SHIFT shows the eight bits of the stream from place `k` on. -/
def Window (b : Byte) (miso : List Level) (k : Nat) (shift : Byte) : Prop :=
  ∀ j, j < 8 → (bitStream b miso)[k + j]? = some (shift.getMsbD j)

theorem Window.start (b : Byte) (miso : List Level) : Window b miso 0 b := by
  intro j hj
  rw [Nat.zero_add]
  exact bitStream_out b miso hj

theorem Window.shiftIn {b : Byte} {miso : List Level} {k : Nat} {x : Byte} (h : Window b miso k x) {l : Level}
    (hl : miso[k]? = some l) : Window b miso (k + 1) (x.extractLsb' 0 7 ++ BitVec.ofBool l) := by
  intro j hj
  rw [getMsbD_shiftIn x l hj]
  split
  · rename_i h7
    rw [h7, show k + 1 + 7 = k + 8 from rfl, bitStream_in]
    exact hl
  · rw [show k + 1 + j = k + (j + 1) by omega]
    exact h (j + 1) (by omega)

/-! ### The invariant of a byte on its way -/

/-- `k` bits of the byte that TXBUF held in `s` are out and as many levels of MISO are in; the byte has been received
when all eight are (R105 to R108). -/
structure BitsOut (miso rest : List Level) (s : State) (k : Nat) (t : State) : Prop where
  only : t.OnlyShifter
  fair : t.env.wedge = none
  bitcnt : t.spi.bitcnt = BitVec.ofNat 4 (8 - k)
  half : t.spi.half = false
  txe : t.spi.txe = true
  levels : t.env.miso = miso.drop k ++ rest
  window : Window s.spi.txbuf miso k t.spi.shift
  received : if k < 8 then t.spi.rxne = false ∧ t.trace = s.trace
    else t.spi.rxne = true ∧ t.spi.rxbuf = t.spi.shift ∧ t.trace = s.trace ++ [.rx t.spi.shift]

/-- The first step loads the byte (R105). -/
theorem step_bitsOut_load {s : State} (ho : s.OnlyShifter) (hs : s.Serves) (hb : s.spi.bitcnt = 0#4)
    (ht : s.spi.txe = false) (hr : s.spi.rxne = false) {miso rest : List Level} (hm : s.env.miso = miso ++ rest) :
    step s = .next s.shifterLoad ∧ BitsOut miso rest s 0 s.shifterLoad := by
  obtain ⟨hen, hw⟩ := hs
  exact ⟨step_load ho hw hen hb ht,
    { only := ho, fair := hw, bitcnt := rfl, half := rfl, txe := rfl, levels := hm, window := .start _ _
      received := ⟨hr, rfl⟩ }⟩

/-- The count of the bits left, one bit later. -/
theorem bitsLeft_sub_one {k : Nat} (hk : k < 8) : BitVec.ofNat 4 (8 - k) - 1#4 = BitVec.ofNat 4 (8 - (k + 1)) := by
  interval_cases k <;> rfl

theorem bitsLeft_ne_zero {k : Nat} (hk : k < 8) : BitVec.ofNat 4 (8 - k) ≠ 0#4 := by
  interval_cases k <;> decide

namespace BitsOut

section
variable {miso rest : List Level} {s t : State} {k : Nat} (h : BitsOut miso rest s k t) (hk : k < 8)
include h hk

theorem bitcnt_ne : t.spi.bitcnt ≠ 0#4 := h.bitcnt ▸ bitsLeft_ne_zero hk

/-- SCK falls (R106). -/
theorem step_lead : step t = .next t.shifterLead := Machine.step_lead h.only h.fair (h.bitcnt_ne hk) h.half

/-- At the fall MOSI takes the next bit (R106). -/
theorem mosi_lead : t.shifterLead.spi.mosi = s.spi.txbuf.getMsbD k := by
  have out := (bitStream_out s.spi.txbuf miso hk).symm.trans (h.window 0 (by omega))
  rw [State.shifterLead_spi, BitVec.msb_eq_getMsbD_zero, Option.some.inj out]

/-- SCK rises (R107). -/
theorem step_trail : step t.shifterLead = .next t.shifterLead.shifterTrail :=
  Machine.step_trail h.only h.fair (h.bitcnt_ne hk) rfl

/-- At the rise MOSI still shows the bit (R107). -/
theorem mosi_trail : t.shifterLead.shifterTrail.spi.mosi = s.spi.txbuf.getMsbD k :=
  (shifterTrail_mosi _).trans (h.mosi_lead hk)

/-- The rise takes one level of MISO in, and the eighth completes the byte (R107, R108). -/
theorem next (hm : miso.length = 8) : BitsOut miso rest s (k + 1) t.shifterLead.shifterTrail := by
  have by_shifter := shifterTrail_byShifter t.shifterLead
  have split_levels : t.shifterLead.env.miso = miso[k] :: (miso.drop (k + 1) ++ rest) := by
    rw [State.shifterLead_env, h.levels, List.drop_eq_getElem_cons (by omega), List.cons_append]
  have level : t.shifterLead.misoLevel = miso[k] := by rw [State.misoLevel, split_levels]
  have count : t.shifterLead.spi.bitcnt - 1#4 = BitVec.ofNat 4 (8 - (k + 1)) :=
    (congrArg (· - 1#4) h.bitcnt).trans (bitsLeft_sub_one hk)
  have quiet : t.spi.rxne = false ∧ t.trace = s.trace := by simpa [hk] using h.received
  obtain ⟨hr, htrace⟩ := quiet
  constructor
  · exact by_shifter.onlyShifter h.only
  · exact by_shifter.wedge h.fair
  · rw [shifterTrail_bitcnt, count]
  · exact shifterTrail_half _
  · rw [shifterTrail_txe]
    exact h.txe
  · rw [shifterTrail_miso, split_levels, List.tail_cons]
  · rw [shifterTrail_shift, level]
    exact h.window.shiftIn (List.getElem?_eq_getElem (by omega))
  · split
    · rename_i hnext
      obtain ⟨hrxne, hkeep⟩ := shifterTrail_inside (count ▸ bitsLeft_ne_zero hnext)
      exact ⟨hrxne.trans hr, hkeep.trans htrace⟩
    · rename_i hlast
      obtain rfl : k = 7 := by omega
      obtain ⟨hrxne, hrxbuf, hrx⟩ := shifterTrail_last count hr
      exact ⟨hrxne, hrxbuf, hrx.trans (by rw [State.shifterLead_trace, htrace])⟩

end

end BitsOut

/-- One step loads the byte, and two more put each bit out (R105 to R107). -/
theorem run_bitsOut {miso rest : List Level} {s : State} (hload : step s = .next s.shifterLoad)
    (hstart : BitsOut miso rest s 0 s.shifterLoad) (hm : miso.length = 8) {k : Nat} (hk : k ≤ 8) :
    ∃ t, Sys2Proof.core.run (2 * k + 1) s = .next t ∧ BitsOut miso rest s k t := by
  induction k with
  | zero => exact ⟨_, run_succ (n := 0) rfl hload, hstart⟩
  | succ k ih =>
    obtain ⟨t, ht, h⟩ := ih (by omega)
    have hlt : k < 8 := by omega
    have run := run_succ (run_succ ht (h.step_lead hlt)) (h.step_trail hlt)
    exact ⟨_, run, h.next hlt hm⟩

/-- Settles O21, by the invariant that SHIFT is a window of eight places on the stream of the byte's bits and the
levels of MISO, one place further with each bit. -/
theorem byteOnTheWire : Obligations.ByteOnTheWire := by
  intro s miso rest ho hs hb ht hr hm hlevels
  obtain ⟨hload, hstart⟩ := step_bitsOut_load ho hs hb ht hr hlevels
  refine ⟨fun k hk => ?_, ?_⟩
  · obtain ⟨t, hrun, h⟩ := run_bitsOut hload hstart hm (by omega : k ≤ 8)
    have fall := run_succ hrun (h.step_lead hk)
    have rise := run_succ fall (h.step_trail hk)
    exact ⟨t.shifterLead, t.shifterLead.shifterTrail, fall, rfl, h.mosi_lead hk, rise,
      shifterTrail_sck _, h.mosi_trail hk⟩
  · obtain ⟨v, hrun, h⟩ := run_bitsOut hload hstart hm (Nat.le_refl 8)
    obtain ⟨hrxne, hrxbuf, htrace⟩ := h.received
    refine ⟨v, hrun, ?_, hrxne, ?_, ?_, fun k hk => ?_⟩
    · simp [State.TransportIdle, Transport.busy, h.txe, h.bitcnt]
    · simp [h.levels, hm]
    · rw [htrace, hrxbuf]
    · rw [hrxbuf, ← h.window k hk, Nat.add_comm, bitStream_in]

end Sys2Proof.Machine

/-! ## The Serial Transport: its operations, its waits, and the rules of its shifter one step at a time -/

namespace Sys2Proof.Machine

/-! ### Operations that complete -/

/-- On a free port an operation that leaves the port free has completed (R81). -/
theorem completed_of_exec {i : Instr} {s t : State} (hf : s.PortFree) (h : exec i s = .next t) (ht : t.PortFree) :
    Completed (encode i) t := by
  obtain rfl := exec_next_pseudocode h
  obtain ⟨hopc, hopr⟩ := operation_word i hf
  exact ⟨ht, hopc, hopr⟩

/-- An operation of one wait and one step completes when the wait ends (R101 to R104). -/
theorem exec_wait_then {i : Instr} (hi : i.wf = true) {c : WaitCond} {a : SeqStep} (hp : pseudocode i = [.wait c, a])
    {s u v : State} (hf : s.PortFree) (hu : (s.acceptWord (encode i)).waitUntil c = .moved u)
    (hv : a.run u.tickPos = .moved v) :
    exec i s = .next v.tickPos.complete ∧ Completed (encode i) v.tickPos.complete := by
  have moved : advance (pseudocode i) (s.acceptWord (encode i)) = .moved v.tickPos := by
    rw [hp, advance_cons, SeqStep.run, hu, Progress.andThen_moved, advance_cons, hv]
    rfl
  have h := exec_of_moved hi hf moved
  exact ⟨h, completed_of_exec hf h rfl⟩

/-- A wait that ends has let the shifter alone move, until its condition held. -/
theorem waitUntil_moved {c : WaitCond} {s t : State} (h : s.waitUntil c = .moved t) :
    ByShifter s t ∧ c.holds t = true := by
  rcases waitUntil_cases c s with ⟨u, hu, hby, hc⟩ | ⟨u, hu, -⟩
  · obtain rfl : u = t := Progress.moved.inj (hu.symm.trans h)
    exact ⟨hby, hc⟩
  · cases hu.symm.trans h

/-- A wait for a condition that holds already changes nothing. -/
theorem waitUntil_moved_eq {c : WaitCond} {s t : State} (h : s.waitUntil c = .moved t) (hc : c.holds s = true) :
    t = s :=
  Progress.moved.inj (h.symm.trans (waitUntil_of_holds hc))

theorem ByShifter.countersKept {s t : State} (h : ByShifter s t) : CountersKept s t :=
  ⟨by rw [h.seq], by rw [h.seq], by rw [h.seq]⟩

/-- Since `s` a word has been accepted, a wait has ended and the shifter has moved: what is as it was. -/
structure PastWait (s t : State) : Prop where
  lines : t.lines = s.lines
  sink : t.sink = s.sink
  txbuf : t.spi.txbuf = s.spi.txbuf
  bytes : t.byteTrace = s.byteTrace
  kept : Kept s t
  counters : CountersKept s t

theorem ByShifter.pastWait {w : OpWord} {s u : State} (h : ByShifter (s.acceptWord w) u) : PastWait s u.tickPos where
  lines := h.lines
  sink := h.sink
  txbuf := h.txbuf
  bytes := h.bytes
  kept := { (accept_kept w s).trans h.kept with }
  counters := { h.countersKept with }

/-- The turn of the shifter before the step behind the wait. -/
theorem PastWait.turn {s t : State} (h : PastWait s t) : PastWait s t.shifterTurn where
  lines := (shifterTurn_byShifter t).lines.trans h.lines
  sink := (shifterTurn_byShifter t).sink.trans h.sink
  txbuf := (shifterTurn_byShifter t).txbuf.trans h.txbuf
  bytes := (shifterTurn_byShifter t).bytes.trans h.bytes
  kept := h.kept.trans (shifterTurn_byShifter t).kept
  counters := h.counters.trans (shifterTurn_byShifter t).countersKept

/-! ### SPI_INIT -/

theorem holds_idleIfEnabled {s : State} :
    WaitCond.holds .idleIfEnabled s = true ↔ s.spi.cfg.spiEn = false ∨ s.TransportIdle := by
  simp [WaitCond.holds, State.TransportIdle]

theorem TransportIdle.bytesHeld {s : State} (h : s.TransportIdle) : s.spi.bytesHeld = 0 := by
  simp [Transport.bytesHeld, TransportIdle.txe h, TransportIdle.bitcnt h]

/-- The wait of SPI_INIT ends on a transport not enabled, on an idle one and on a serving one (R101). -/
theorem waitUntil_spiInit {s : State} (h : s.spi.cfg.spiEn = false ∨ s.TransportIdle ∨ s.Serves) :
    ∃ u, s.waitUntil .idleIfEnabled = .moved u := by
  rcases or_assoc.mpr h with hnow | ⟨-, hw⟩
  · exact ⟨s, waitUntil_of_holds (holds_idleIfEnabled.mpr hnow)⟩
  · obtain ⟨u, hu, -⟩ := waitUntil_idleIfEnabled hw
    exact ⟨u, hu⟩

/-- On an enabled transport the wait of SPI_INIT lets every byte still held arrive, with one Rx event each (R108). -/
theorem waitUntil_spiInit_rx {s u : State} (hu : s.waitUntil .idleIfEnabled = .moved u) (hen : s.spi.cfg.spiEn = true) :
    ∃ rx : List Byte, rx.length = s.spi.bytesHeld ∧ u.trace = s.trace ++ rx.map .rx := by
  obtain ⟨hby, hc⟩ := waitUntil_moved hu
  have idle : u.TransportIdle := (holds_idleIfEnabled.mp hc).resolve_left (by simp [hby.cfg, hen])
  obtain ⟨rx, htrace, hlen⟩ := waitUntil_rx hu
  exact ⟨rx, by rwa [TransportIdle.bytesHeld idle] at hlen, htrace⟩

/-- Settles O13: the wait ends, with nothing moved where its condition holds at once, and the configuration is
written. -/
theorem spiInitConfigures : Obligations.SpiInitConfigures := by
  intro s hf hready
  obtain ⟨u, hu⟩ := waitUntil_spiInit (s := s.acceptWord (encode .spiInit)) hready
  obtain ⟨hexec, hdone⟩ := exec_wait_then (i := .spiInit) rfl rfl hf hu rfl
  obtain ⟨lines, sink, txbuf, bytes, kept, counters⟩ := (waitUntil_moved hu).1.pastWait
  have received := waitUntil_spiInit_rx hu
  refine ⟨_, hexec, hdone, rfl, rfl, rfl, rfl, rfl, rfl, bytes, txbuf, fun hnow => ?_, received, lines,
    kept.inp, sink, kept.host, kept.resByte, kept.resEdge, { counters with }, kept.buttons⟩
  obtain rfl := waitUntil_moved_eq hu (holds_idleIfEnabled.mpr hnow)
  exact ⟨rfl, rfl⟩

/-! ### WRITE -/

/-- The wait of WRITE ends where the buffer is free and on a serving transport (R102). -/
theorem waitUntil_write {s : State} (h : s.spi.txe = true ∨ s.Serves) : ∃ u, s.waitUntil .txe = .moved u := by
  rcases h with htxe | hs
  · exact ⟨s, waitUntil_of_holds htxe⟩
  · obtain ⟨u, hu, -⟩ := waitUntil_txe hs
    exact ⟨u, hu⟩

/-- Settles O14: up to the load of the byte the shifter alone moves, and on an idle transport not even that. -/
theorem writeLoadsBuffer : Obligations.WriteLoadsBuffer := by
  intro b s hf hready
  obtain ⟨u, hu⟩ := waitUntil_write (s := s.acceptWord (encode (.write b))) hready
  obtain ⟨moves, -⟩ := waitUntil_moved hu
  have operand : ByteSrc.operand.value u.tickPos.seq = b := by
    rw [State.tickPos_seq, ByteSrc.value_pos, moves.seq]
    exact oprByte_accept 0x02#8 b s
  have load : (SeqStep.load .operand).run u.tickPos = .moved (u.tickPos.shifterTurn.loadTx b) := by
    rw [SeqStep.run, operand]
  obtain ⟨hexec, hdone⟩ := exec_wait_then (i := .write b) rfl rfl hf hu load
  obtain ⟨lines, sink, -, bytes, kept, counters⟩ := moves.pastWait.turn
  refine ⟨_, hexec, hdone, rfl, rfl, ?_, lines, fun hcs => ?_, fun hcs => ?_, { kept with }, { counters with },
    fun hidle => ?_⟩
  · simp [bytes]
  · simp [Sink.react, lines, sink, hcs]
  · simp [Sink.react, lines, sink, hcs]
  · obtain rfl := waitUntil_moved_eq hu (TransportIdle.txe hidle)
    simp [shifterTurn_of_idle (s := (s.acceptWord (encode (.write b))).tickPos) hidle]

/-! ### READ -/

/-- The wait of READ ends where a byte has arrived, and where one is on its way through a serving transport (R104). -/
theorem waitUntil_read {s : State} (h : s.spi.rxne = true ∨ (s.Serves ∧ s.spi.busy = true)) :
    ∃ u, s.waitUntil .rxne = .moved u := by
  rcases waitUntil_cases .rxne s with ⟨u, hu, -⟩ | ⟨u, -, hby, hc, hactive⟩
  · exact ⟨u, hu⟩
  · refine absurd (show u.spi.rxne = true from ?_) (by simpa [WaitCond.holds] using hc)
    rcases h with hr | ⟨hs, hbusy⟩
    · exact hby.rxne hr
    · have coming : s.WillReceive := by
        simp only [Transport.busy, Bool.or_eq_true, Bool.not_eq_true', bne_iff_ne] at hbusy
        exact hbusy.elim .inl fun hb => .inr (.inl hb)
      exact TransportIdle.received (idle_of_not_active (hby.serves hs) hactive) (hby.receives coming)

/-- Settles O15: the wait ends, and up to the taking of the byte the shifter alone moves. -/
theorem readTakesReceivedByte : Obligations.ReadTakesReceivedByte := by
  intro s hf hready
  obtain ⟨u, hu⟩ := waitUntil_read (s := s.acceptWord (encode .read)) hready
  obtain ⟨hexec, hdone⟩ := exec_wait_then (i := .read) rfl rfl hf hu rfl
  obtain ⟨lines, sink, -, bytes, kept, counters⟩ := (waitUntil_moved hu).1.pastWait.turn
  refine ⟨_, hexec, hdone, rfl, if_pos hdone.opc, rfl, fun hr hidle => ?_, bytes, lines, sink, kept.inp, kept.resEdge,
    kept.cfg, kept.host, { counters with }, kept.buttons⟩
  obtain rfl := waitUntil_moved_eq hu hr
  simp [shifterTurn_of_idle (s := (s.acceptWord (encode .read)).tickPos) hidle]

/-! ### Every operation but READ -/

/-- An operation of frames completes with a serving transport. -/
theorem SendInOrder.completes {i : Instr} {fs : List Frame} (h : SendInOrder [i] fs) {s : State} (hf : s.PortFree)
    (hs : s.Serves) : ∃ t, exec i s = .next t ∧ Completed (encode i) t := by
  obtain ⟨t, ht, sent⟩ := h s hf hs
  rw [execAll_singleton] at ht
  exact ⟨t, ht, completed_of_exec hf ht sent.free⟩

/-- Settles O17: the waits of SPI_INIT and WRITE end, frames are sent, and the other operations wait for nothing. -/
theorem fairShifterCompletesEveryOperation : Obligations.FairShifterCompletesEveryOperation := by
  intro i s hi hread hf hs
  cases i with
  | spiInit =>
    obtain ⟨t, ht, done, -⟩ := spiInitConfigures s hf (.inr (.inr hs))
    exact ⟨t, ht, done⟩
  | write b =>
    obtain ⟨t, ht, done, -⟩ := writeLoadsBuffer b s hf (.inr hs)
    exact ⟨t, ht, done⟩
  | read => exact absurd rfl hread
  | reset =>
    obtain ⟨t, ht, free, -⟩ := exec_reset hf
    exact ⟨t, ht, completed_of_exec hf ht free⟩
  | init =>
    obtain ⟨_, t, ht, -, sent⟩ := exec_init hf hs
    exact ⟨t, ht, completed_of_exec hf ht sent.free⟩
  | command b => exact (SendInOrder.command b).completes hf hs
  | data b => exact (SendInOrder.data b).completes hf hs
  | clear => exact SendInOrder.clear.completes hf hs
  | selectPage page column => exact (SendInOrder.selectPage page column).completes hf hs
  | render inv => exact (SendInOrder.render inv).completes hf hs
  | pollEdge _ | setSettle _ =>
    have h := exec_of_moved hi hf rfl
    exact ⟨_, h, completed_of_exec hf h rfl⟩

/-! ### Waits that a stopped shifter never ends -/

/-- Steps taken leave the running operation alone and are counted (R30). -/
theorem advance_moved_seq {l : List SeqStep} {s t : State} (h : advance l s = .moved t) :
    t.seq.opBusy = s.seq.opBusy ∧ t.seq.opc = s.seq.opc ∧ t.seq.pos = s.seq.pos + l.length := by
  induction l generalizing s with
  | nil =>
    cases h
    exact ⟨rfl, rfl, rfl⟩
  | cons a l ih =>
    have same := run_sameOperation a s
    rw [advance_cons] at h
    cases ha : a.run s with
    | moved u =>
      rw [ha] at h same
      obtain ⟨hbusy, hopc, hpos⟩ := ih h
      refine ⟨hbusy.trans same.busy, hopc.trans same.opc, ?_⟩
      have counted : u.tickPos.seq.pos = s.seq.pos + 1 := congrArg (· + 1) same.pos
      rw [hpos, counted, List.length_cons]
      omega
    | waits u =>
      rw [ha] at h
      cases h

/-- An operation that comes to a wait whose condition fails, with a shifter that has no step left, is stuck there
(R203). -/
theorem exec_stuck_at_wait {i : Instr} (hi : i.wf = true) {before rest : List SeqStep} {c : WaitCond}
    (hp : pseudocode i = before ++ .wait c :: rest) {s t : State} (hf : s.PortFree)
    (hb : advance before (s.acceptWord (encode i)) = .moved t) (hc : c.holds t = false)
    (ha : t.shifterActive = false) : exec i s = .next t ∧ t.StuckForEver := by
  obtain ⟨hbusy, hopc, hpos⟩ := advance_moved_seq hb
  have hops : stepsOf t.seq.opc = some (pseudocode i) := by
    rw [hopc]
    exact stepsOf_encode i
  have hdrop : (pseudocode i).drop t.seq.pos = .wait c :: rest := by
    rw [hpos, hp]
    exact List.drop_left' (Nat.zero_add _).symm
  refine ⟨?_, stuck_at_wait hbusy hops hdrop hc ha⟩
  rw [exec_of_wf hi, operation_of_free hf, hp, advance_append, hb, Progress.andThen_moved, advance_cons, SeqStep.run,
    waitUntil_of_stuck hc ha, Progress.andThen_waits, Progress.finish_waits]

theorem not_active_of_wedged {s : State} (h : s.Wedged) : s.shifterActive = false := by
  have stopped : s.env.wedge = some 0 := h
  simp [State.shifterActive, Environment.stopped, stopped]

/-- The condition of a wait does not read the sequencer's registers. -/
theorem WaitCond.holds_setSeq (c : WaitCond) (q : Sequencer) (s : State) : c.holds (s.setSeq q) = c.holds s := by
  cases c <;> rfl

/-- With a stopped shifter an operation is stuck at its first wait when the condition fails, and nothing has changed if
at most PAGE_CNT was cleared before (R203). -/
theorem exec_stuck_at_first_wait {i : Instr} (hi : i.wf = true) {before rest : List SeqStep} {c : WaitCond}
    (hp : pseudocode i = before ++ .wait c :: rest) (hbefore : before = [] ∨ before = [.clearPage]) {s : State}
    (hf : s.PortFree) (hw : s.Wedged) (hc : c.holds s = false) :
    ∃ t, exec i s = .next t ∧ t.StuckForEver ∧ t.lines = s.lines ∧ t.trace = s.trace ∧ t.spi = s.spi ∧
      t.sink = s.sink := by
  obtain ⟨q, hq⟩ : ∃ q, advance before (s.acceptWord (encode i)) = .moved (s.setSeq q) := by
    rcases hbefore with rfl | rfl
    · exact ⟨_, rfl⟩
    · exact ⟨_, rfl⟩
  have still : c.holds (s.setSeq q) = false := (c.holds_setSeq q s).trans hc
  obtain ⟨h, stuck⟩ := exec_stuck_at_wait hi hp hf hq still (not_active_of_wedged hw)
  exact ⟨_, h, stuck, rfl, rfl, rfl, rfl⟩

/-- The operations of frames but INIT come to the wait of F1 with at most PAGE_CNT cleared (R120, R125, R152). -/
theorem pseudocode_firstFrame {i : Instr}
    (hi : (∃ b, i = .command b) ∨ (∃ b, i = .data b) ∨ (∃ p c, i = .selectPage p c) ∨ i = .clear ∨
      ∃ inv, i = .render inv) :
    i.wf = true ∧ ∃ before rest, pseudocode i = before ++ .wait .idle :: rest ∧
      (before = [] ∨ before = [.clearPage]) := by
  rcases hi with ⟨b, rfl⟩ | ⟨b, rfl⟩ | ⟨p, c, rfl⟩ | rfl | ⟨inv, rfl⟩
  · exact ⟨rfl, [], _, rfl, .inl rfl⟩
  · exact ⟨rfl, [], _, rfl, .inl rfl⟩
  · exact ⟨rfl, [], _, rfl, .inl rfl⟩
  · exact ⟨rfl, [.clearPage], _, rfl, .inr rfl⟩
  · exact ⟨rfl, [.clearPage], _, rfl, .inr rfl⟩

theorem openWindow_trace (k : Dc) (src : ByteSrc) (s : State) :
    (s.openWindow k src).trace = s.trace ++ [.lineCs .asserted, .lineDc k, .byte (src.value s.seq)] := by
  simp [State.openWindow]

/-- With a stopped shifter a frame on an idle transport is stuck at F5, its byte in TXBUF and its window open (R120). -/
theorem exec_frame_wedged {i : Instr} (hi : i.wf = true) {k : Dc} {src : ByteSrc} {b : Byte} {s : State}
    (hp : pseudocode i = frame k src) (hb : src.value (s.acceptWord (encode i)).seq = b) (hf : s.PortFree)
    (hw : s.Wedged) (hidle : s.TransportIdle) :
    ∃ t, exec i s = .next t ∧ t.StuckForEver ∧ t.lines = { cs := .asserted, dc := k, rst := s.lines.rst } ∧
      t.trace = s.trace ++ [.lineCs .asserted, .lineDc k, .byte b] := by
  obtain ⟨h, stuck⟩ := exec_stuck_at_wait hi hp hf
    (advance_openWindow (s := s.acceptWord (encode i)) hidle []) rfl (not_active_of_wedged hw)
  exact ⟨_, h, stuck, rfl, hb ▸ openWindow_trace k src _⟩

/-- Settles O18: each operation comes to a wait whose condition fails, and a stopped shifter has no step to end it. -/
theorem wedgedShifterStallsWaits : Obligations.WedgedShifterStallsWaits := by
  refine ⟨fun i s hi hf hw hbusy => ?_, fun i k b s hi hf hw hidle => ?_, fun i s hf hw hi => ?_⟩
  · obtain ⟨hwf, before, rest, hp, hbefore⟩ := pseudocode_firstFrame hi
    exact exec_stuck_at_first_wait hwf hp hbefore hf hw (by simp [WaitCond.holds, hbusy])
  · rcases hi with ⟨rfl, rfl⟩ | ⟨rfl, rfl⟩
    · exact exec_frame_wedged rfl rfl (oprByte_accept 0x11#8 b s) hf hw hidle
    · exact exec_frame_wedged rfl rfl (oprByte_accept 0x12#8 b s) hf hw hidle
  · rcases hi with ⟨rfl, hen, hbusy⟩ | ⟨⟨b, rfl⟩, htxe⟩ | ⟨rfl, hrxne⟩
    · have busy : WaitCond.holds .idleIfEnabled s = false := by simp [WaitCond.holds, hen, hbusy]
      exact exec_stuck_at_first_wait rfl rfl (.inl rfl) hf hw busy
    · exact exec_stuck_at_first_wait (c := .txe) rfl rfl (.inl rfl) hf hw htxe
    · exact exec_stuck_at_first_wait (c := .rxne) rfl rfl (.inl rfl) hf hw hrxne

/-! ### The rules of the shifter, one step of an idle block each -/

/-- With nothing else to do a shifter that has not stopped takes its enabled step (R208). -/
theorem step_of_enabled {s : State} (ho : s.OnlyShifter) (hw : ¬ s.Wedged)
    (h : (s.spi.canLoad || s.spi.canLead || s.spi.canTrail) = true) : step s = .next s.shifterStep := by
  have runs : s.env.stopped = false := beq_eq_false_iff_ne.mpr hw
  exact step_of_shifterActive ho (by rw [State.shifterActive, h, runs]; rfl)

theorem shifterStep_of_canLoad {s : State} (h : s.spi.canLoad = true) : s.shifterStep = s.shifterLoad.spendStep :=
  if_pos h

/-- Inside a byte the shifter's step is a clock edge (R106, R107). -/
theorem shifterStep_of_bitcnt {s : State} (h : s.spi.bitcnt ≠ 0#4) :
    s.shifterStep = if s.spi.half then s.shifterTrail.spendStep else s.shifterLead.spendStep := by
  cases hh : s.spi.half <;> simp [State.shifterStep, Transport.canLoad, Transport.canLead, h, hh]

/-- The last trailing edge of a byte receives it, whatever RXNE is (R108). -/
theorem shifterTrail_receives {s : State} (h : s.spi.bitcnt = 1#4) :
    s.shifterTrail.spi.rxne = true ∧ s.shifterTrail.trace = s.trace ++ [.rx s.shifterTrail.spi.shift] := by
  simp only [State.shifterTrail, State.byteComplete, State.afterMiso_spi, h, BitVec.sub_self, if_true]
  split <;> simp

/-- Before the last bit of a byte a trailing edge leaves RXBUF alone (R107). -/
theorem shifterTrail_rxbuf_inside {s : State} (h : s.spi.bitcnt - 1#4 ≠ 0#4) :
    s.shifterTrail.spi.rxbuf = s.spi.rxbuf := by
  simp only [State.shifterTrail, State.afterMiso_spi, if_neg h]

/-- Settles O20: the enabled step is the load between two bytes, and inside a byte the edge that HALF asks for. -/
theorem shifterStepsFollowRules : Obligations.ShifterStepsFollowRules := by
  intro s ho hw
  refine ⟨fun hen hb ht => ?_, fun hb hh => ?_, fun hb hh => ?_⟩
  · have load : s.spi.canLoad = true := by simp [Transport.canLoad, hen, hb, ht]
    refine ⟨_, step_of_enabled ho hw (by simp [load]), ?_⟩
    simp [shifterStep_of_canLoad load]
  · refine ⟨_, step_of_enabled ho hw (by simp [Transport.canLead, hb, hh]), ?_⟩
    simp [shifterStep_of_bitcnt hb, hh, BitVec.msb_eq_getLsbD_last]
  · have edge := step_of_enabled ho hw (by simp [Transport.canTrail, hb, hh])
    rw [shifterStep_of_bitcnt hb, if_pos hh] at edge
    have moves := shifterTrail_byShifter s
    refine ⟨_, s.misoLevel, edge, ?_⟩
    simp only [State.spendStep_spi, State.spendStep_trace]
    refine ⟨fun l rest hl => by rw [State.misoLevel, hl], shifterTrail_sck s, shifterTrail_shift s,
      shifterTrail_bitcnt s, shifterTrail_half s, shifterTrail_mosi s, shifterTrail_txe s, moves.txbuf, moves.cfg,
      fun hinside => ?_, fun hlast => ?_⟩
    · have more : s.spi.bitcnt - 1#4 ≠ 0#4 := sub_ne_zero.mpr hinside
      obtain ⟨hrxne, htrace⟩ := shifterTrail_inside more
      exact ⟨hrxne, shifterTrail_rxbuf_inside more, htrace⟩
    · obtain ⟨hrxne, htrace⟩ := shifterTrail_receives hlast
      refine ⟨hrxne, htrace, fun hr => ?_⟩
      obtain ⟨-, hrxbuf, -⟩ := shifterTrail_last (by rw [hlast, BitVec.sub_self]) hr
      exact hrxbuf

end Sys2Proof.Machine

/-! ## The Display Protocol Driver: its operations on a free port, with their whole frame -/

namespace Sys2Proof.Machine

/-- Settles O22: COMMAND is one command frame with the byte of its operand (`exec_command`). -/
theorem commandSendsOneFrame : Obligations.CommandSendsOneFrame := fun b _ hf hs => exec_command b hf hs

/-- Settles O23: DATA is one data frame with the byte of its operand (`exec_data`). -/
theorem dataSendsOneFrame : Obligations.DataSendsOneFrame := fun b _ hf hs => exec_data b hf hs

/-- Settles O24: the pulse does the same before and after SPI_INIT, since none of its steps waits for the transport. -/
theorem resetPulsesDeviceLine : Obligations.ResetPulsesDeviceLine := by
  intro s hf
  obtain ⟨t, ht, bytes, lines, sink, kept, seq, idle⟩ := advance_resetPulse (s.acceptWord (encode .reset))
  have next : exec .reset s = .next t.complete := exec_of_moved rfl hf ht
  have completed : Completed (encode .reset) t.complete := completed_of_exec hf next rfl
  rw [show encode .reset = 0x10000000#32 by decide] at completed
  have counters : CountersKept s t.complete := by constructor <;> rw [State.complete_seq, seq] <;> rfl
  exact ⟨t.complete, next, completed, bytes, lines, sink, ((accept_kept _ s).trans kept).trans (complete_kept t),
    counters, idle⟩

/-- Settles O25: SELECT_PAGE is three command frames whose bytes are cut from its operand (`exec_selectPage`). -/
theorem selectPageSendsThreeCommands : Obligations.SelectPageSendsThreeCommands :=
  fun page column _ hf hs => exec_selectPage page column hf hs

/-- Settles O26: CLEAR is the page loop with the constant byte 0x00, by induction over the pages and the columns
(`exec_clear`). -/
theorem clearSendsZeroScreen : Obligations.ClearSendsZeroScreen := by
  intro s hf hs
  have sent := exec_clear hf hs
  rwa [show encode .clear = 0x14000000#32 by decide] at sent

end Sys2Proof.Machine

/-! ## INIT: the reset pulse, the table, and the counter that walks it -/

namespace Sys2Proof.Machine

/-- The last entry of the table is the display-on command; the other 25 are open parameters (R141). -/
theorem initSeq_getLast? : Config.initSeq.getLast? = some Config.cmdDisplayOn := by
  rw [Config.initSeq, show Config.nInit = 25 + 1 from rfl, List.range_succ, List.map_append]
  exact List.getLast?_concat

theorem initFrames_getLast? : initFrames.getLast? = some (.command, Config.cmdDisplayOn) := by
  rw [initFrames, List.getLast?_map, initSeq_getLast?, Option.map_some]

theorem framesEvents_initFrames : framesEvents initFrames = Config.initSeq.flatMap CMD :=
  List.flatMap_map ..

/-- INIT walks the table with INIT_IDX, once over all its entries; the other two counters are not its own (R31, R140). -/
theorem advance_initSteps_counters {s u t : State} (hu : advance resetPulse s = .moved u) (hs : u.Serves)
    (ht : advance initSteps s = .moved t) :
    t.seq.initIdx = 26#5 ∧ t.seq.pageCnt = u.seq.pageCnt ∧ t.seq.colCnt = u.seq.colCnt := by
  have cleared : Sends [] u (u.setSeq { u.seq with initIdx := 0#5 }).tickPos := sends_setSeq rfl rfl rfl
  obtain ⟨v, hv, -, counters⟩ := advance_inits 26 0 (cleared.serves hs) rfl (by omega)
  have same : t = v := by
    rw [initSteps, advance_append, advance_append, hu] at ht
    exact Progress.moved.inj (ht.symm.trans hv)
  exact same ▸ counters

/-- Settles O28: INIT is the reset pulse (`advance_resetPulse`), then the frames of the table from the state the pulse
has reached (`advance_initSteps`), counted by INIT_IDX (`advance_initSteps_counters`). -/
theorem initSendsTable : Obligations.InitSendsTable := by
  refine ⟨rfl, initSeq_getLast?, fun s hf hs => ?_⟩
  obtain ⟨u, hu, bytes, lines, -, kept, seq, -⟩ := advance_resetPulse (s.acceptWord (encode .init))
  have hus : u.Serves := kept.serves hs
  obtain ⟨t, ht, sends⟩ := advance_initSteps hu hus
  obtain ⟨idx, page, col⟩ := advance_initSteps_counters hu hus ht
  have next : exec .init s = .next t.complete := exec_of_moved rfl hf ht
  have completed : Completed (encode .init) t.complete := completed_of_exec hf next rfl
  rw [show encode .init = 0x13000000#32 by decide] at completed
  have events : t.byteTrace = s.byteTrace ++ resetEvents ++ Config.initSeq.flatMap CMD := by
    rw [sends.bytes, bytes, framesEvents_initFrames]
    rfl
  have atRest : t.lines = { cs := .deasserted, dc := .command, rst := .high } := by
    rw [sends.lines, linesAfter_of_getLast? initFrames_getLast?, lines]
  obtain ⟨idle, sck, rxne⟩ := sends.sent (.inr fun hnil => by simpa [hnil] using initFrames_getLast?)
  have kept' : Kept s t.complete := (((accept_kept _ s).trans kept).trans sends.kept).trans (complete_kept t)
  rw [seq] at page col
  exact ⟨t.complete, next, completed, events, atRest, ⟨idle, sck, rxne⟩, kept', idx, page, col⟩

end Sys2Proof.Machine

/-! ## The Pattern Renderer: the cell of an address, the pattern byte of a cell, and the screen RENDER sends -/

namespace Sys2Proof.Machine

/-! ### The cell of an address -/

/-- `column div 16 = column[6:4]` (R150). -/
theorem cellX_toNat (column : BitVec 7) : cellX column.toNat = (column.extractLsb' 4 3).toNat := by
  have hcolumn : cellX column.toNat < 8 := cellX_lt column.toNat column.isLt
  rw [BitVec.extractLsb'_toNat, Nat.shiftRight_eq_div_pow]
  exact (Nat.mod_eq_of_lt hcolumn).symm

/-- The parity of a cell's coordinates, one bit of each of them (R156). -/
theorem cellParity_eq_xor (page : BitVec 3) (column : BitVec 7) :
    ((cellX column.toNat + cellY page.toNat) % 2 == 1) = (column[4] ^^ page[0]) := by
  have hx : column[4] = (cellX column.toNat % 2 == 1) := by
    rw [BitVec.getElem_eq_testBit_toNat, Nat.testBit_eq_decide_div_mod_eq, beq_eq_decide]
    rfl
  have hy : page[0] = (cellY page.toNat % 2 == 1) := by
    rw [BitVec.getElem_eq_testBit_toNat, Nat.testBit_zero, beq_eq_decide]
    rfl
  rw [hx, hy, Nat.add_mod]
  rcases Nat.mod_two_eq_zero_or_one (cellX column.toNat) with h | h <;>
    rcases Nat.mod_two_eq_zero_or_one (cellY page.toNat) with h' | h' <;> rw [h, h'] <;> rfl

/-! ### The pattern byte -/

/-- The pattern byte with the model's parameters written out (R6, R151). -/
theorem pattern_eq (inv : Bool) (page column : Nat) :
    pattern inv page column = if ((column / 16 + page) % 2 == 1) ^^ inv then 0xFF#8 else 0x00#8 := rfl

/-- The columns of one cell have one pattern byte (R150). -/
theorem pattern_congr_cellX {c d : Nat} (h : cellX c = cellX d) (inv : Bool) (page : Nat) :
    pattern inv page c = pattern inv page d := by
  rw [pattern, pattern, h]

/-- The inverted variant is the exact complement of the normal one (R151). -/
theorem pattern_true (page column : Nat) : pattern true page column = pattern false page column ^^^ 0xFF#8 := by
  rw [pattern, pattern]
  cases (cellX column + cellY page) % 2 == 1 <;> rfl

/-- Settles O43: the coordinates are fields of the address, and the pattern sees a column through its cell alone. -/
theorem patternFollowsCells : Obligations.PatternFollowsCells := by
  intro page column
  have hx : cellX column.toNat < 8 := cellX_lt column.toNat column.isLt
  have hy : cellY page.toNat < 8 := cellY_lt page.toNat page.isLt
  refine ⟨cellX_toNat column, rfl, rfl, hx, hy, by omega, fun inv => pattern_eq inv _ _, pattern_true _ _, ?_⟩
  intro inv c hc
  have hcell : cellX c.toNat = cellX column.toNat := by rw [cellX_toNat, cellX_toNat, hc]
  exact pattern_congr_cellX hcell inv page.toNat

/-- Settles O44: the parity of a sum is the exclusive or of the parities (`cellParity_eq_xor`). -/
theorem patternBitForm : Obligations.PatternBitForm := by
  intro inv page column
  refine ⟨?_, pattern_true _ _⟩
  rw [pattern, cellParity_eq_xor]
  rfl

/-! ### RENDER -/

/-- Settles O27: RENDER is the page loop with the pattern byte of the two counters, by induction over the pages and the
columns (`exec_render`), and that byte is the checkerboard's (`pattern_eq`). -/
theorem renderSendsCheckerboard : Obligations.RenderSendsCheckerboard := by
  intro inv s hf hs
  have sent := exec_render inv hf hs
  rwa [show pattern inv = _ from funext₂ (pattern_eq inv)] at sent

end Sys2Proof.Machine

/-! ## The Debounced Input: a poll on a free port, successive polls, and the settle delay -/

namespace Sys2Proof.Machine

/-! ### One poll on a free port -/

/-- POLL_EDGE of a button the build has is one poll of that button between acceptance and completion; it waits for
nothing (R162). -/
theorem exec_pollEdge {i : BitVec 2} (hi : i.toNat < Config.nBtn) {s : State} (hf : s.PortFree) :
    ∃ u l, exec (.pollEdge i) s = .next u.tickPos.complete ∧ Polled i (s.acceptWord (encode (.pollEdge i))) u l := by
  obtain ⟨l, polled⟩ := pollButton_polled i (s.acceptWord (encode (.pollEdge i)))
  have run : SeqStep.poll.run (s.acceptWord (encode (.pollEdge i))) =
      .moved ((s.acceptWord (encode (.pollEdge i))).shifterTurn.pollButton i) := by
    rw [SeqStep.run, encode, oprButton_accept]
  refine ⟨_, l, exec_of_moved (i := .pollEdge i) ((hasButton_iff i).mpr hi) hf ?_, polled⟩
  rw [pseudocode, pollEdgeSteps, advance_cons, run, Progress.andThen_moved, advance_nil]

/-- The result of POLL_EDGE is RES_EDGE as a byte (R84). -/
theorem resultPort_of_pollEdge {s : State} (h : s.seq.opc = 0x30#8) :
    s.resultPort = if s.res.resEdge then 0x01#8 else 0x00#8 := by
  rw [State.resultPort, h]
  cases s.res.resEdge <;> rfl

/-- Settles O45: the poll (`exec_pollEdge`) with the completion behind it, whose result is the edge just latched. -/
theorem pollEdgeReportsPressEdge : Obligations.PollEdgeReportsPressEdge := by
  intro i s hi hf
  obtain ⟨u, l, next, polled⟩ := exec_pollEdge hi hf
  have done := completed_of_exec hf next rfl
  have port := resultPort_of_pollEdge (s := u.tickPos) (done.opc.trans (opcodeOf_opWord _ _))
  rw [State.tickPos_res, polled.edge] at port
  have counters : CountersKept s u.tickPos.complete := by
    constructor <;> rw [State.complete_seq, State.tickPos_seq, polled.seq] <;> rfl
  have prev : u.inp.getPrev i = (l == Config.btnActiveLevel i) := by
    rw [polled.inp, getPrev_setPrev i _ _ (Nat.lt_of_lt_of_le hi nBtn_le)]
  have others : ∀ j, j ≠ i → u.inp.getPrev j = s.inp.getPrev j := fun j hj => by
    rw [polled.inp, getPrev_setPrev_ne i j _ _ hj, State.acceptWord_inp]
  have settle : u.inp.settle = s.inp.settle := by rw [polled.inp, setPrev_settle, State.acceptWord_inp]
  exact ⟨u.tickPos.complete, l, _, next, done, polled.level, rfl, prev, others, settle, polled.edge, port, polled.bytes,
    polled.lines, polled.sink, polled.resByte, polled.cfg, polled.host, counters, polled.spi⟩

/-! ### Polls of levels the environment has chosen -/

/-- All that a poll of button `i` shows of a level `l` the environment has chosen: RES_EDGE and the result are the press
edge against PREV[i], which takes the sample; the other buttons and the choices still ahead are left (R162, R84). -/
theorem exec_pollEdge_of_buttons {i : BitVec 2} (hi : i.toNat < Config.nBtn) {s : State} (hf : s.PortFree) {l : Level}
    {rest : List Level} (hb : s.env.buttons = l :: rest) :
    ∃ t, exec (.pollEdge i) s = .next t ∧ t.PortFree ∧ t.env.buttons = rest ∧
      t.res.resEdge = (l == Config.btnActiveLevel i && !s.inp.getPrev i) ∧
      t.res.port = (if l == Config.btnActiveLevel i && !s.inp.getPrev i then 0x01#8 else 0x00#8) ∧
      t.inp.getPrev i = (l == Config.btnActiveLevel i) ∧ ∀ j, j ≠ i → t.inp.getPrev j = s.inp.getPrev j := by
  obtain ⟨t, _, _, next, done, level, rfl, prev, others, -, edge, port, -⟩ := pollEdgeReportsPressEdge i s hi hf
  obtain ⟨rfl, buttons⟩ := level l rest hb
  exact ⟨t, next, done.free, buttons, edge, port, prev, others⟩

/-- Settles O48, by induction on the levels: each poll reports the edge against PREV[i] and leaves its sample there for the
next poll. -/
theorem eachPressReportedOnce : Obligations.EachPressReportedOnce := by
  intro i levels rest s hi hf hb
  induction levels generalizing s with
  | nil => rfl
  | cons l levels ih =>
    obtain ⟨t, next, free, buttons, edge, -, prev, -⟩ := exec_pollEdge_of_buttons hi hf hb
    have later := ih t free buttons
    rw [prev] at later
    simp only [List.length_cons, pollResults, next, edge, later, List.map_cons, risingEdges]

/-- Settles O49: both verdicts are the same function of the level and of PREV[i] (`exec_pollEdge_of_buttons`). -/
theorem buttonsAreIndependent : Obligations.ButtonsAreIndependent := by
  intro i l rest₁ rest₂ s₁ s₂ hi hf₁ hf₂ hprev hb₁ hb₂
  obtain ⟨t₁, next₁, -, -, edge₁, port₁, prev₁, others⟩ := exec_pollEdge_of_buttons hi hf₁ hb₁
  obtain ⟨t₂, next₂, -, -, edge₂, port₂, prev₂, -⟩ := exec_pollEdge_of_buttons hi hf₂ hb₂
  rw [← hprev] at edge₂ port₂
  exact ⟨t₁, t₂, next₁, next₂, edge₁.trans edge₂.symm, port₁.trans port₂.symm, prev₁.trans prev₂.symm, others⟩

/-! ### The settle delay -/

/-- SET_SETTLE is one write of SETTLE between acceptance and completion (R164). -/
theorem exec_setSettle (n : Count) {s : State} (hf : s.PortFree) :
    exec (.setSettle n) s = .next (State.complete (State.tickPos
      { s.acceptWord (encode (.setSettle n)) with inp := { s.inp with settle := n } })) := by
  have operand : (s.acceptWord (encode (.setSettle n))).seq.opr = n := operandOf_opWord 0x31#8 n
  refine exec_of_moved rfl hf ?_
  rw [pseudocode, setSettleSteps, advance_cons, SeqStep.run, operand]
  rfl

/-- Settles O46: between acceptance and completion SETTLE alone is written (`exec_setSettle`). -/
theorem setSettleWritesSettle : Obligations.SetSettleWritesSettle := fun n _ hf =>
  have next := exec_setSettle n hf
  ⟨_, next, completed_of_exec hf next rfl, rfl, rfl, rfl, rfl, rfl, rfl, rfl, rfl, rfl, ⟨rfl, rfl, rfl⟩, rfl⟩

/-- Settles O47: SET_SETTLE leaves PREV and the trace to the poll, which waits out the SETTLE it finds. -/
theorem newSettleAppliesToNextEdge : Obligations.NewSettleAppliesToNextEdge := by
  intro n i s hi hf
  obtain ⟨u, hu, set, settled, samePrev, sameTrace, -⟩ := setSettleWritesSettle n s hf
  obtain ⟨t, l, _, ht, polled, -, rfl, -, -, settle, edge, -, bytes, -⟩ := pollEdgeReportsPressEdge i u hi set.free
  have before : u.inp.getPrev i = s.inp.getPrev i := by simp only [Inputs.getPrev, samePrev]
  rw [← edge, settled, State.byteTrace_congr sameTrace] at bytes
  rw [before] at edge
  have both := (execAll_cons hu).trans ((execAll_singleton (.pollEdge i) u).trans ht)
  exact ⟨t, l, both, polled.free, settle.trans settled, edge, bytes⟩

end Sys2Proof.Machine

/-! ## The reference host: the bounds of its blink delay, its actions, and its startup -/

namespace Sys2Proof.Machine

/-! ### A step that is the host's own -/

/-- To the host an idle step is the Control Loop's action, which is none where another host is attached (R5, R208). -/
theorem idleStep_host (s : State) : s.idleStep.host = s.loopStep.host := by
  unfold State.idleStep State.loopStep
  cases s.host.loop with
  | off =>
    show (if s.shifterActive then s.shifterStep else s).host = s.host
    split
    · exact (shifterStep_byShifter s).host
    · rfl
  | _ => rfl

/-- On a free port with no word waiting the Control Loop acts (R182 to R188). -/
theorem step_of_loop {s : State} (hf : s.PortFree) (hq : s.host.queue = []) (hl : s.host.loop ≠ .off) :
    step s = .next s.loopStep := by
  have hbusy : s.seq.opBusy = false := hf
  have acts : s.idleStep = s.loopStep := by
    unfold State.idleStep
    cases h : s.host.loop with
    | off => exact absurd h hl
    | _ => rfl
  simp only [step, hbusy, Bool.false_eq_true, if_false, State.fetchWord, hq, acts]

/-- On an empty queue the words presented are the queue. -/
theorem HostAgent.present_of_empty {h : HostAgent} (hq : h.queue = []) (ws : List OpWord) :
    h.present ws = { h with queue := ws } := by
  rw [HostAgent.present, hq, List.nil_append]

/-! ### The blink delay -/

/-- The blink delay is between its bounds (R181): `DelayInv` as it speaks of the host alone. -/
def HostAgent.DelayBounded (h : HostAgent) : Prop := Config.delayMin ≤ h.delay ∧ h.delay ≤ Config.delayMax

theorem delayInv_iff (s : State) : DelayInv s ↔ s.host.DelayBounded := Iff.rfl

/-- The startup value is between the bounds (R182). -/
theorem HostAgent.doSetup_delayBounded (h : HostAgent) : h.doSetup.DelayBounded := reset_delayInv

/-- Doubling does not fall below the lower bound, and the clamp keeps the upper one (R185). -/
theorem HostAgent.doUpEdge_delayBounded {h : HostAgent} (hd : h.DelayBounded) : h.doUpEdge.DelayBounded := by
  obtain ⟨hmin, hmax⟩ := hd
  unfold HostAgent.doUpEdge
  split
  · exact ⟨by simp only; omega, Nat.min_le_right _ _⟩
  · exact ⟨hmin, hmax⟩

/-- Halving does not exceed the upper bound, and the clamp keeps the lower one (R186). -/
theorem HostAgent.doDownEdge_delayBounded {h : HostAgent} (hd : h.DelayBounded) : h.doDownEdge.DelayBounded := by
  obtain ⟨hmin, hmax⟩ := hd
  unfold HostAgent.doDownEdge
  split
  · exact ⟨Nat.le_max_right _ _, by simp only; omega⟩
  · exact ⟨hmin, hmax⟩

/-- The blink phase waits by the delay and does not write it (R187). -/
theorem HostAgent.doBlink_delay (h : HostAgent) : h.doBlink.delay = h.delay := by
  unfold HostAgent.doBlink
  split <;> rfl

/-- Three actions of the Control Loop write the delay, each inside its bounds. -/
theorem loopStep_delayBounded {s : State} (hd : s.host.DelayBounded) : s.loopStep.host.DelayBounded := by
  unfold State.loopStep
  cases s.host.loop with
  | setup => exact s.host.doSetup_delayBounded
  | upEdge => exact HostAgent.doUpEdge_delayBounded hd
  | downEdge => exact HostAgent.doDownEdge_delayBounded hd
  | blink =>
    unfold HostAgent.DelayBounded
    rw [HostAgent.doBlink_delay]
    exact hd
  | off | boot | sampleMode | sampleUp | sampleDown | modeEdge => exact hd

/-- Settles O58: the sequencer leaves the host alone, and the Control Loop's actions keep the bounds. -/
theorem stepKeepsBlinkDelayBounds : Obligations.StepKeepsBlinkDelayBounds := by
  intro s t h hs
  rw [delayInv_iff] at h ⊢
  have idle : ∀ u : State, u.host.DelayBounded → u.idleStep.host.DelayBounded := fun u hu => by
    rw [idleStep_host]
    exact loopStep_delayBounded hu
  exact (seqKeeps_host HostAgent.DelayBounded).step (fun _ _ hu => hu) idle h hs

/-! ### The actions -/

/-- An up edge doubles the delay up to its upper bound, flips the mode and presents the redraw (R185). -/
theorem HostAgent.doUpEdge_of_edge {h : HostAgent} (hup : h.eUp = true) (hq : h.queue = []) :
    h.doUpEdge = { h with
      queue := [encode (.render h.mode.flip.inv)], delay := min (2 * h.delay) 16000000, mode := h.mode.flip,
      loop := .downEdge } := by
  rw [HostAgent.doUpEdge, if_pos hup, HostAgent.present_of_empty hq]
  rfl

theorem HostAgent.doUpEdge_of_no_edge {h : HostAgent} (hup : h.eUp = false) :
    h.doUpEdge = { h with loop := .downEdge } := by
  rw [HostAgent.doUpEdge, if_neg (by simp [hup])]

/-- A down edge halves the delay down to its lower bound, and without one nothing is written (R186). -/
theorem HostAgent.doDownEdge_eq (h : HostAgent) :
    h.doDownEdge = { h with
      delay := if h.eDown then max (h.delay / 2) Config.delayMin else h.delay, loop := .blink } := by
  unfold HostAgent.doDownEdge
  split <;> rfl

/-- Blinking drives the indicator low and high, with a delay behind each (R187). -/
theorem HostAgent.doBlink_of_blinking {h : HostAgent} (hb : h.blinkEn = true) :
    h.doBlink = { h with
      ind := true, loop := .sampleMode,
      log := h.log ++ [.indicator false, .blinkDelay h.delay, .indicator true, .blinkDelay h.delay] } := by
  rw [HostAgent.doBlink, if_pos hb]
  simp only [HostAgent.driveInd, HostAgent.blinkWait, List.append_assoc, List.cons_append, List.nil_append]

theorem HostAgent.doBlink_of_steady {h : HostAgent} (hb : h.blinkEn = false) :
    h.doBlink = { h with ind := true, loop := .sampleMode, log := h.log ++ [.indicator true] } := by
  rw [HostAgent.doBlink, if_neg (by simp [hb])]
  rfl

/-- Settles O57: the step is the Control Loop's action (`step_of_loop`), read off at each place of the iteration. -/
theorem controlLoopActs : Obligations.ControlLoopActs := by
  intro s hf hq
  have acts {p : LoopPhase} (hp : s.host.loop = p) (hoff : p ≠ .off) : step s = .next s.loopStep :=
    step_of_loop hf hq (hp ▸ hoff)
  have presents := HostAgent.present_of_empty hq
  have poll0 : encode (.pollEdge 0#2) = 0x30000000#32 := by decide
  have poll1 : encode (.pollEdge 1#2) = 0x30000001#32 := by decide
  have poll2 : encode (.pollEdge 2#2) = 0x30000002#32 := by decide
  have redrawInverted : encode (.render DisplayMode.normal.flip.inv) = 0x20000001#32 := by decide
  have redrawNormal : encode (.render DisplayMode.inverted.flip.inv) = 0x20000000#32 := by decide
  refine ⟨fun h => ?sampleMode, fun h => ?sampleUp, fun h => ?sampleDown, fun h => ?modeEdge, fun h hno => ?noUpEdge,
    fun h hup hm => ?toInverted, fun h hup hm => ?toNormal, fun h => ?downEdge, fun h hb => ?blinking,
    fun h hb => ?steady⟩
  all_goals
    rw [acts h (by decide)]
    simp only [State.loopStep, h]
  case sampleMode => rw [presents, poll0]
  case sampleUp => rw [presents, poll1]; rfl
  case sampleDown => rw [presents, poll2]; rfl
  case modeEdge => rfl
  case noUpEdge => rw [HostAgent.doUpEdge_of_no_edge hno]
  case toInverted => rw [HostAgent.doUpEdge_of_edge hup hq, hm, redrawInverted]; rfl
  case toNormal => rw [HostAgent.doUpEdge_of_edge hup hq, hm, redrawNormal]; rfl
  case downEdge => rw [HostAgent.doDownEdge_eq]
  case blinking => rw [HostAgent.doBlink_of_blinking hb]
  case steady => rw [HostAgent.doBlink_of_steady hb]

end Sys2Proof.Machine

/-! ## The startup of the reference host: two actions of its own, and between them the three operations it presents -/

namespace Sys2Proof.Machine

/-! ### One presented operation of the startup -/

/-- The state in which the first word has been taken from the queue (R81). -/
def State.withQueue (rest : List OpWord) (s : State) : State := { s with host := { s.host with queue := rest } }

/-- No operation touches the host (R5). -/
theorem exec_host {i : Instr} {s t : State} (h : exec i s = .next t) : t.host = s.host := by
  obtain rfl := exec_next_pseudocode h
  exact (operation_onlyOwn i s).host

/-- The step from `s` ran the presented operation to its end, with the byte-level events `evs`: the port is free again,
the transport serves, and the host goes on with the words `rest`. -/
structure RanNext (rest : List OpWord) (evs : List Event) (s t : State) : Prop where
  next : step s = .next t
  free : t.PortFree
  serves : t.Serves
  bytes : t.byteTrace = s.byteTrace ++ evs
  queue : t.host.queue = rest
  loop : t.host.loop = s.host.loop

/-- The step that takes a presented operation is the operation (R81). -/
theorem RanNext.of_exec {i : Instr} (hi : i.wf = true) {rest : List OpWord} {evs : List Event} {s t : State}
    (hf : s.PortFree) (hq : s.host.queue = encode i :: rest) (h : exec i (s.withQueue rest) = .next t)
    (free : t.PortFree) (serves : t.Serves) (bytes : t.byteTrace = s.byteTrace ++ evs) : RanNext rest evs s t where
  next := (step_of_presented hf hq).trans ((execWord_of_ok (decode_encode hi) _).trans h)
  free := free
  serves := serves
  bytes := bytes
  queue := by rw [exec_host h]; rfl
  loop := by rw [exec_host h]; rfl

/-- SPI_INIT on a transport not yet enabled: no event, and the transport serves (R101). -/
theorem ranNext_spiInit {s : State} {rest : List OpWord} (hf : s.PortFree)
    (hq : s.host.queue = encode .spiInit :: rest) (hw : s.env.wedge = none) (hen : s.spi.cfg.spiEn = false) :
    ∃ t, RanNext rest [] s t := by
  obtain ⟨t, ht, free, serves⟩ := exec_spiInit_serves (s := s.withQueue rest) hf hw
  obtain ⟨t', ht', -, -, -, -, -, -, -, bytes, -⟩ := spiInitConfigures (s.withQueue rest) hf (.inl hen)
  obtain rfl : t = t' := Host.Outcome.next.inj (ht.symm.trans ht')
  exact ⟨t, .of_exec rfl hf hq ht free serves (bytes.trans (List.append_nil _).symm)⟩

/-- The 26 bytes of INIT_SEQ make a device just reset Ready and on (R68, R73). -/
theorem Sink.acceptAll_initFrames :
    Sink.afterPulse.acceptAll initFrames = { Sink.afterPulse with phase := .ready, on := some true } := by
  rw [initFrames, Config.initSeq, List.map_map, List.range_eq_range']
  exact Sink.acceptAll_initSeq 25 0 rfl rfl

/-- INIT: the reset pulse and the table, after which the device is Ready and on whatever it was before (R140, R73). -/
theorem ranNext_init {s : State} {rest : List OpWord} (hf : s.PortFree) (hq : s.host.queue = encode .init :: rest)
    (hs : s.Serves) :
    ∃ t, RanNext rest (resetEvents ++ Config.initSeq.flatMap CMD) s t ∧ t.lines.rst = .high ∧
      t.sink.phase = .ready ∧ t.sink.on = some true := by
  obtain ⟨u, t, ht, pulsed, ran⟩ := exec_init (s := s.withQueue rest) hf hs
  have bytes : t.byteTrace = s.byteTrace ++ (resetEvents ++ Config.initSeq.flatMap CMD) := by
    rw [ran.bytes, pulsed.bytes, framesEvents_initFrames, List.append_assoc]
    rfl
  have rst : t.lines.rst = .high := by
    rw [ran.lines, linesAfter_of_getLast? initFrames_getLast?, pulsed.lines]
  have sink : t.sink = { Sink.afterPulse with phase := .ready, on := some true } := by
    rw [ran.sink, pulsed.sink, Sink.acceptAll_initFrames]
  exact ⟨t, .of_exec rfl hf hq ht ran.free ran.serves bytes, rst, by rw [sink], by rw [sink]⟩

/-- The pattern of RENDER 0 is the checkerboard of Display Mode Normal (R92, R151). -/
theorem pattern_false : pattern false = normalPicture := by
  funext page column
  rw [pattern_eq, normalPicture]
  simp only [Bool.xor_false, beq_iff_eq]

/-- RENDER 0: the screen of the normal checkerboard (R152, R154). -/
theorem ranNext_renderNormal {s : State} {rest : List OpWord} (hf : s.PortFree)
    (hq : s.host.queue = encode (.render false) :: rest) (hs : s.Serves) :
    ∃ t, RanNext rest (framesEvents (screenFrames normalPicture)) s t ∧
      SentFrames (encode (.render false)) (screenFrames normalPicture) .data (s.withQueue rest) t := by
  obtain ⟨t, ht, sent, -⟩ := exec_render false (s := s.withQueue rest) hf hs
  rw [pattern_false] at sent
  exact ⟨t, .of_exec rfl hf hq ht sent.completed.free (sent.kept.serves hs) sent.events, sent⟩

/-! ### The Control Loop's own actions of the startup -/

/-- The first action of the startup presents its three operations (R182). -/
theorem HostAgent.doBoot_queue {h : HostAgent} (hq : h.queue = []) :
    h.doBoot.queue = [encode .spiInit, encode .init, encode (.render false)] := by
  rw [HostAgent.doBoot, HostAgent.present_of_empty hq]

theorem step_boot {s : State} (hf : s.PortFree) (hq : s.host.queue = []) (hl : s.host.loop = .boot) :
    step s = .next { s with host := s.host.doBoot } := by
  rw [step_of_loop hf hq (by simp [hl])]
  simp only [State.loopStep, hl]

theorem step_setup {s : State} (hf : s.PortFree) (hq : s.host.queue = []) (hl : s.host.loop = .setup) :
    step s = .next { s with host := s.host.doSetup } := by
  rw [step_of_loop hf hq (by simp [hl])]
  simp only [State.loopStep, hl]

/-- On a Ready device that is on, RENDER 0 with the Control Loop's last action behind it is the end of the startup. -/
theorem SentFrames.startedUp {w : OpWord} {s t : State} (h : SentFrames w (screenFrames normalPicture) .data s t)
    (hrst : s.lines.rst = .high) (hready : s.sink.phase = .ready) (hon : s.sink.on = some true)
    (hq : t.host.queue = []) : StartedUp { t with host := t.host.doSetup } := by
  obtain ⟨painted, -⟩ := Sink.acceptAll_screenFrames normalPicture hready
  rw [← h.sink] at painted
  exact {
    free := h.completed.free
    lines := by rw [h.lines, hrst]
    sent := { h.sent with }
    ready := painted.ready
    on := painted.on.trans hon
    picture := painted.screen.1
    delay := rfl
    mode := rfl
    blinkEn := rfl
    ind := rfl
    loop := rfl
    queue := hq }

/-! ### The startup as a whole -/

/-- Right after a reset, with the Control Loop attached (R43, R182): the port is free, no word waits, the loop stands at
the first line of its startup, the transport is not enabled, and its shifter never stops. -/
structure State.AtBoot (r : State) : Prop where
  free : r.PortFree
  queue : r.host.queue = []
  loop : r.host.loop = .boot
  disabled : r.spi.cfg.spiEn = false
  fair : r.env.wedge = none

/-- The five steps of the startup: an action of the Control Loop, SPI_INIT, INIT, RENDER 0, an action of the Control
Loop. -/
theorem State.AtBoot.startsUp {r : State} (h : r.AtBoot) :
    ∃ t, Sys2Proof.core.run 5 r = .next t ∧ t.byteTrace = r.byteTrace ++ startupEvents ∧ StartedUp t := by
  have boot := step_boot h.free h.queue h.loop
  obtain ⟨u, spi⟩ := ranNext_spiInit (s := { r with host := r.host.doBoot }) h.free (HostAgent.doBoot_queue h.queue)
    h.fair h.disabled
  obtain ⟨v, init, rst, ready, on⟩ := ranNext_init spi.free spi.queue spi.serves
  obtain ⟨w, render, sent⟩ := ranNext_renderNormal init.free init.queue init.serves
  have setup := step_setup render.free render.queue (render.loop.trans (init.loop.trans spi.loop))
  have run : Sys2Proof.core.run 5 r = .next { w with host := w.host.doSetup } :=
    run_succ (run_succ (run_succ (run_succ (run_succ (n := 0) rfl boot) spi.next) init.next) render.next) setup
  have bytes : w.byteTrace = r.byteTrace ++ startupEvents := by
    rw [render.bytes, init.bytes, spi.bytes, List.append_nil, List.append_assoc]
    rfl
  exact ⟨_, run, bytes, sent.startedUp rst ready on render.queue⟩

theorem reset_atBoot : State.reset.AtBoot := ⟨rfl, rfl, rfl, rfl, rfl⟩

/-- A block reset puts the Control Loop at its startup and recovers a stopped shifter (R182, R204). -/
theorem blockReset_atBoot {s : State} (hl : s.host.loop ≠ .off) (hr : s.RunsAfterReset) : s.blockReset.AtBoot :=
  ⟨rfl, rfl, if_neg hl, rfl, State.recover_wedge_none hr⟩

/-- A power cycle does so too (R204, R222). -/
theorem powerCycle_atBoot {s : State} (hl : s.host.loop ≠ .off) (hr : s.RunsAfterReset) : s.powerCycle.AtBoot :=
  { blockReset_atBoot hl hr with }

/-- Settles O59: the reset state is at boot, and its trace is empty. -/
theorem controlLoopStartupPaintsDisplay : Obligations.ControlLoopStartupPaintsDisplay := reset_atBoot.startsUp

/-- Settles O60: either reset leaves the machine at boot and the trace as it was. -/
theorem blockResetRestartsReferenceHost : Obligations.BlockResetRestartsReferenceHost := by
  intro s r hr hl hruns
  have boot : r.AtBoot := by
    obtain rfl | rfl := hr
    · exact blockReset_atBoot hl hruns
    · exact powerCycle_atBoot hl hruns
  have bytes : r.byteTrace = s.byteTrace := by obtain rfl | rfl := hr <;> rfl
  have words : [encode .spiInit, encode .init, encode (.render false)] =
      [0x01000000#32, 0x13000000#32, 0x20000000#32] := by decide
  refine ⟨⟨_, step_boot boot.free boot.queue boot.loop, (HostAgent.doBoot_queue boot.queue).trans words⟩, ?_⟩
  rw [← bytes]
  exact boot.startsUp

end Sys2Proof.Machine

/-! ## After a reset: SPI_INIT and INIT from any host, and what a power cycle leaves -/

namespace Sys2Proof.Machine

/-- SPI_INIT on a transport not yet enabled waits for nothing and emits nothing at the byte level (R101). -/
theorem exec_spiInit_bytes {s t : State} (hf : s.PortFree) (hen : s.spi.cfg.spiEn = false)
    (h : exec .spiInit s = .next t) : t.byteTrace = s.byteTrace := by
  obtain ⟨u, hu, -, -, -, -, -, -, -, bytes, -⟩ := spiInitConfigures s hf (.inl hen)
  obtain rfl : t = u := Host.Outcome.next.inj (h.symm.trans hu)
  exact bytes

/-- INIT on a serving transport: the reset pulse, then the table as commands (R140). -/
theorem exec_init_bytes {s t : State} (hf : s.PortFree) (hs : s.Serves) (h : exec .init s = .next t) :
    t.byteTrace = s.byteTrace ++ resetEvents ++ Config.initSeq.flatMap CMD := by
  obtain ⟨u, v, hv, pulsed, ran⟩ := exec_init hf hs
  obtain rfl : t = v := Host.Outcome.next.inj (h.symm.trans hv)
  rw [ran.bytes, pulsed.bytes, framesEvents_initFrames]

/-- Before SPI_INIT has run, the events of SPI_INIT and INIT are those of INIT. -/
theorem execAll_spiInit_init_bytes {s t : State} (hf : s.PortFree) (hen : s.spi.cfg.spiEn = false)
    (hw : s.env.wedge = none) (h : execAll [.spiInit, .init] s = .next t) :
    t.byteTrace = s.byteTrace ++ resetEvents ++ Config.initSeq.flatMap CMD := by
  obtain ⟨u, hu, free, serves⟩ := exec_spiInit_serves hf hw
  rw [execAll_cons hu, execAll_singleton] at h
  rw [exec_init_bytes free serves h, exec_spiInit_bytes hf hen hu]

/-- Settles O11: either reset leaves the port free, the transport not enabled, the shifter running and the trace as it was;
from there SPI_INIT and INIT make the device ready (O31). -/
theorem blockResetRecoversBlock : Obligations.BlockResetRecoversBlock := by
  intro s r hr hruns
  have free : r.PortFree := by obtain rfl | rfl := hr <;> rfl
  have disabled : r.spi.cfg.spiEn = false := by obtain rfl | rfl := hr <;> rfl
  have fair : r.env.wedge = none := by obtain rfl | rfl := hr <;> exact State.recover_wedge_none hruns
  have bytes : r.byteTrace = s.byteTrace := by obtain rfl | rfl := hr <;> rfl
  obtain ⟨t, ht, tfree, serves, ready, on, -⟩ := initMakesDeviceReady r free fair
  have events := execAll_spiInit_init_bytes free disabled fair ht
  rw [bytes] at events
  exact ⟨t, ht, tfree, serves, ready, on, events⟩

/-- Settles O12: the block has the values of R43 (O9), the sink is the one of power-on, and the host starts again. -/
theorem powerCycleLosesEverything : Obligations.PowerCycleLosesEverything := by
  intro s
  have sink : s.powerCycle.sink = Sink.powerOn := rfl
  obtain ⟨spiEn, txe, bitcnt, half, rxne, -, -, -, free, prev, settle⟩ := resetLeavesStatedValues
  have loop (hl : s.host.loop ≠ .off) : s.powerCycle.host.loop = .boot := if_neg hl
  rw [sink]
  exact ⟨rfl, fun _ => rfl, rfl, rfl, rfl, rfl, settle, prev, free, spiEn, txe, bitcnt, half, rxne, rfl, rfl, rfl, loop⟩

end Sys2Proof.Machine

/-! ## Reset and hazards: an idle block, stalls and their end, the transport before SPI_INIT, errors of the host, counts of
events -/

namespace Sys2Proof.Machine

/-! ### An idle block -/

/-- With nothing else to do and no enabled step of the shifter, nothing moves (R208, R220). -/
theorem step_of_still {s : State} (h : s.OnlyShifter) (ha : s.shifterActive = false) : step s = .next s := by
  obtain ⟨hf, hq, hl⟩ := h
  have hbusy : s.seq.opBusy = false := hf
  simp only [step, hbusy, Bool.false_eq_true, if_false, State.fetchWord, hq, State.idleStep, hl, ha]

/-- Settles O8: the step is the shifter's (`step_of_shifterActive`), which moves the transport alone, or it is none
(`step_of_still`); an idle transport leaves the shifter none. -/
theorem idleBlockOnlyShifts : Obligations.IdleBlockOnlyShifts := by
  intro s ho
  cases ha : s.shifterActive with
  | false => exact ⟨s, step_of_still ho ha, rfl, rfl, rfl, rfl, rfl, rfl, rfl, rfl, rfl, fun _ => rfl⟩
  | true =>
    obtain ⟨lines, seq, inp, res, sink, host, cfg, txbuf, bytes, -⟩ := shifterStep_byShifter s
    have notIdle : ¬ s.TransportIdle := fun hidle => by simp [not_active_of_idle hidle] at ha
    exact ⟨s.shifterStep, step_of_shifterActive ho ha, lines, seq, inp, res, sink, host, cfg, txbuf, bytes,
      fun hidle => absurd hidle notIdle⟩

/-! ### Stalls, and the block reset that ends them -/

/-- Settles O16: the first step of READ waits for RXNE, and an idle transport leaves the shifter nothing to set it
with. -/
theorem readWithNothingComingIsStuck : Obligations.ReadWithNothingComingIsStuck := by
  intro s hf hrxne hidle
  obtain ⟨next, stuck⟩ := exec_stuck_at_wait (i := .read) (c := .rxne) rfl (before := []) rfl hf rfl hrxne
    (not_active_of_idle (s := s.acceptWord (encode .read)) hidle)
  exact ⟨_, next, stuck, rfl, rfl, rfl, rfl, rfl⟩

/-- After a block reset the shifter has not stopped, whatever it did before (R204). -/
theorem blockReset_not_wedged (s : State) : ¬ s.blockReset.Wedged := by
  intro (h : s.env.recover.wedge = some 0)
  simpa [Environment.stopped, h] using s.env.recover_not_stopped

/-- Settles O10: the block has the values of R43 (O9), among them OP_BUSY = 0, which no stuck block has. -/
theorem blockResetEndsStallAndKeepsDevice : Obligations.BlockResetEndsStallAndKeepsDevice := by
  intro s _
  obtain ⟨spiEn, txe, bitcnt, half, rxne, -, -, -, free, prev, settle⟩ := resetLeavesStatedValues
  have notStuck : ¬ s.blockReset.StuckForEver := fun ⟨busy, _⟩ => Bool.false_ne_true (free.symm.trans busy)
  have loop (hl : s.host.loop ≠ .off) : s.blockReset.host.loop = .boot := if_neg hl
  have recovered (hw : s.Wedged) : s.blockReset.env.wedge = none := State.recover_wedge_none (.inr hw)
  exact ⟨s.blockReset, rfl, free, notStuck, spiEn, txe, bitcnt, half, rxne, rfl, prev, settle, rfl, rfl, rfl, loop,
    blockReset_not_wedged s, recovered⟩

/-! ### Before SPI_INIT -/

/-- SPI_INIT has not run and nothing is shifted: the shifter has no byte and takes none (R105, R236). -/
structure State.ShifterOff (s : State) : Prop where
  disabled : s.spi.cfg.spiEn = false
  empty : s.spi.bitcnt = 0#4

namespace State.ShifterOff

theorem not_active {s : State} (h : s.ShifterOff) : s.shifterActive = false := by
  simp [State.shifterActive, Transport.canLoad, Transport.canLead, Transport.canTrail, h.disabled, h.empty]

theorem congr {s t : State} (h : s.ShifterOff) (ht : t.spi = s.spi) : t.ShifterOff :=
  ⟨by rw [ht]; exact h.disabled, by rw [ht]; exact h.empty⟩

/-- With nothing shifted, a free buffer is all that idle asks for (R25). -/
theorem busy_eq {s : State} (h : s.ShifterOff) : s.spi.busy = !s.spi.txe := by
  simp [Transport.busy, h.empty]

theorem idle {s : State} (h : s.ShifterOff) (ht : s.spi.txe = true) : s.TransportIdle := by
  rw [State.TransportIdle, h.busy_eq, ht]
  rfl

end State.ShifterOff

/-- The steps of a frame up to the byte handed over, F1 to F4 (R120). -/
def frameOpening (k : Dc) (src : ByteSrc) : List SeqStep :=
  [.wait .idle, .driveCs .asserted, .driveDc k, .wait .txe, .load src]

theorem frame_eq_opening (k : Dc) (src : ByteSrc) :
    frame k src = frameOpening k src ++ [.wait .idle, .driveCs .deasserted] := rfl

theorem advance_frameOpening (k : Dc) (src : ByteSrc) {s : State} (hidle : s.TransportIdle) :
    advance (frameOpening k src) s = .moved (s.openWindow k src) :=
  advance_openWindow hidle []

/-- Before SPI_INIT an operation that comes to a frame is stuck in it: at F1 where a byte is in TXBUF, else at F5
with its own byte there (R120, R236). -/
theorem State.ShifterOff.exec_stuck_in_frame {i : Instr} (hi : i.wf = true) {before rest : List SeqStep}
    {k : Dc} {src : ByteSrc} (hp : pseudocode i = before ++ (frame k src ++ rest)) {s u : State} (hf : s.PortFree)
    (hu : advance before (s.acceptWord (encode i)) = .moved u) (h : u.ShifterOff) :
    ∃ t, exec i s = .next t ∧ t.StuckForEver := by
  cases htxe : u.spi.txe with
  | false =>
    have waits : WaitCond.holds .idle u = false := by simp [WaitCond.holds, h.busy_eq, htxe]
    exact ⟨u, exec_stuck_at_wait hi hp hf hu waits h.not_active⟩
  | true =>
    have hp' : pseudocode i = (before ++ frameOpening k src) ++ .wait .idle :: (.driveCs .deasserted :: rest) := by
      rw [hp, frame_eq_opening, List.append_assoc, List.append_assoc]
      rfl
    have opened : advance (before ++ frameOpening k src) (s.acceptWord (encode i)) = .moved (u.openWindow k src) := by
      rw [advance_append, hu, Progress.andThen_moved, advance_frameOpening k src (h.idle htxe)]
    have off : (u.openWindow k src).ShifterOff := ⟨h.disabled, h.empty⟩
    exact ⟨_, exec_stuck_at_wait hi hp' hf opened rfl off.not_active⟩

/-- Up to its first frame an operation that sends frames waits for nothing and leaves the transport alone: INIT pulses
the device reset line, CLEAR and RENDER clear PAGE_CNT, the others do nothing (R121, R124, R125, R140, R152). -/
theorem pseudocode_of_sendsFrames {i : Instr} (hi : i.SendsFrames) :
    i.wf = true ∧ ∃ before k src rest, pseudocode i = before ++ (frame k src ++ rest) ∧
      (∀ a ∈ before, a.writesTransport = false) ∧ ∀ s, ∃ u, advance before s = .moved u := by
  have nothing : ∀ a ∈ ([] : List SeqStep), a.writesTransport = false := nofun
  have counter : ∀ a ∈ [SeqStep.clearPage], a.writesTransport = false := by decide
  have pulse : ∀ a ∈ resetPulse ++ [.clearIdx], a.writesTransport = false := by decide
  cases i with
  | command b => exact ⟨rfl, [], _, _, [], rfl, nothing, fun s => ⟨s, rfl⟩⟩
  | data b => exact ⟨rfl, [], _, _, [], rfl, nothing, fun s => ⟨s, rfl⟩⟩
  | selectPage page column => exact ⟨rfl, [], .command, .pageOfOperand, _, rfl, nothing, fun s => ⟨s, rfl⟩⟩
  | init => exact ⟨rfl, _, .command, .initEntry, _, rfl, pulse, fun s => ⟨_, rfl⟩⟩
  | clear => exact ⟨rfl, [.clearPage], .command, .pageOfCounter, _, rfl, counter, fun s => ⟨_, rfl⟩⟩
  | render inv => exact ⟨rfl, [.clearPage], .command, .pageOfCounter, _, rfl, counter, fun s => ⟨_, rfl⟩⟩
  | spiInit | write _ | read | reset | pollEdge _ | setSettle _ => exact hi.elim

/-- Before SPI_INIT every operation that sends frames is stuck (R236). -/
theorem State.ShifterOff.exec_stuck {i : Instr} (hi : i.SendsFrames) {s : State} (hf : s.PortFree) (h : s.ShifterOff) :
    ∃ t, exec i s = .next t ∧ t.StuckForEver := by
  obtain ⟨hwf, before, k, src, rest, hp, leaves, moves⟩ := pseudocode_of_sendsFrames hi
  obtain ⟨u, hu⟩ := moves (s.acceptWord (encode i))
  have still := finish_spi_of_still leaves (s := s.acceptWord (encode i)) h.not_active
  rw [hu] at still
  exact exec_stuck_in_frame hwf hp hf hu (h.congr still)

/-- Settles O19: the first byte fills TXBUF, and no wait for a free buffer or an idle transport ends after that;
SPI_INIT does not wait. -/
theorem transportBeforeSpiInit : Obligations.TransportBeforeSpiInit := by
  intro s hf hen hbit
  have off : s.ShifterOff := ⟨hen, hbit⟩
  refine ⟨off.not_active, fun b htxe => ?firstWrite, fun b htxe => ?secondWrite, fun i hi => ?frames, ?spiInit⟩
  case firstWrite =>
    obtain ⟨t, ht, done, txbuf, txe, -, -, -, -, kept, -, spi⟩ := writeLoadsBuffer b s hf (.inl htxe)
    have bitcnt : t.spi.bitcnt = 0#4 := by rw [spi (off.idle htxe)]; exact hbit
    exact ⟨t, ht, done.free, txbuf, txe, kept.cfg ▸ hen, bitcnt⟩
  case secondWrite =>
    exact ⟨_, exec_stuck_at_wait (i := .write b) (c := .txe) rfl (before := []) rfl hf rfl htxe off.not_active⟩
  case frames =>
    have sends : i.SendsFrames := by
      rcases hi with ⟨b, rfl⟩ | ⟨b, rfl⟩ | ⟨p, c, rfl⟩ | rfl | rfl | ⟨inv, rfl⟩ <;> trivial
    exact off.exec_stuck sends hf
  case spiInit =>
    obtain ⟨t, ht, done, -, txe, -, -, -, -, -, -, same, -⟩ := spiInitConfigures s hf (.inl hen)
    exact ⟨t, ht, done.free, txe, (same (.inl hen)).1⟩

/-! ### A button held at reset -/

/-- Settles O50: PREV[i] is 0 at reset (O9), so an active level is an edge (`exec_pollEdge_of_buttons`). -/
theorem buttonHeldAtResetIsAnEdge : Obligations.ButtonHeldAtResetIsAnEdge := by
  intro i rest s hi hf hinp hb
  obtain ⟨t, next, free, buttons, -, port, prev, -⟩ := exec_pollEdge_of_buttons hi hf hb
  obtain ⟨-, -, -, -, -, -, -, -, -, notBefore, -⟩ := resetLeavesStatedValues
  have edge : (Config.btnActiveLevel i == Config.btnActiveLevel i && !s.inp.getPrev i) = true := by
    rw [hinp, notBefore i, beq_self_eq_true]
    rfl
  exact ⟨t, next, free, port.trans (if_pos edge), prev.trans (beq_self_eq_true _), buttons⟩

/-! ### Data that the device has no place for -/

/-- A Ready device whose pointer is unknown breaks at a data byte (R69, R226). -/
theorem Sink.accept_data_breaks {k : Sink} (hr : k.phase = .ready) (hp : k.pointer = none) (b : Byte) :
    (k.accept .data b).phase = .broken := by
  rw [Sink.accept_data_of_ready hr, Sink.store_nowhere hp]
  rfl

theorem Sink.NoPointer.pointer {k : Sink} (h : k.NoPointer) : k.pointer = none := by
  obtain ⟨hpage, -, -⟩ := h
  simp only [Sink.pointer, hpage]

/-- Bytes sent as data from column 0 on are the bytes of a row of the picture that holds them. -/
theorem dataFrames_eq_columns (bs : List Byte) :
    bs.map (fun b => (Dc.data, b)) = (List.range' 0 bs.length).map fun c => (Dc.data, bs.getD c 0#8) := by
  refine List.ext_getElem (by simp) fun n hn _ => ?_
  rw [List.length_map] at hn
  simp [hn]

/-- From column 0 on 128 data bytes fill the page and lose the pointer (R70). -/
theorem Sink.acceptAll_fills {k : Sink} (hr : k.phase = .ready) {page : BitVec 3} (hp : k.pointer = some (page, 0#7))
    {bs : List Byte} (hlen : bs.length = 128) :
    (k.acceptAll (bs.map fun b => (.data, b))).phase = .ready ∧
      (k.acceptAll (bs.map fun b => (.data, b))).pointer = none := by
  obtain ⟨painted, noPointer⟩ := Sink.acceptAll_columns (fun _ c => bs.getD c 0#8) page 127 0 rfl hr hp
  rw [dataFrames_eq_columns, hlen]
  exact ⟨painted.ready, noPointer.pointer⟩

/-- From column 0 on the 129th data byte breaks the device (R70, R226). -/
theorem Sink.acceptAll_data_breaks {k : Sink} (hr : k.phase = .ready) {page : BitVec 3}
    (hp : k.pointer = some (page, 0#7)) {bs : List Byte} (hlen : bs.length = 129) :
    (k.acceptAll (bs.map fun b => (.data, b))).phase = .broken := by
  obtain ⟨fill, last, rfl⟩ : ∃ fill last, bs = fill ++ [last] :=
    ⟨_, _, (List.dropLast_append_getLast (by rintro rfl; simp at hlen)).symm⟩
  obtain ⟨ready, nowhere⟩ := Sink.acceptAll_fills hr hp (bs := fill) (by simpa using hlen)
  rw [List.map_append, Sink.acceptAll_append]
  exact Sink.accept_data_breaks ready nowhere last

/-- Settles O41: INIT leaves the pointer unknown, and so does the last column of a page; the data byte after it breaks
the device, while the block sends it as any other frame. -/
theorem unselectedDataBreaksDevice : Obligations.UnselectedDataBreaksDevice := by
  refine ⟨fun b s hf hs => ?afterInit, fun page bs s hf hs hr hlen => ?afterPage⟩
  case afterInit =>
    obtain ⟨u, hu, free, serves, sink⟩ := exec_init_sink hf hs
    obtain ⟨t, ht, ran⟩ := SendInOrder.data b u free serves
    rw [Sink.acceptAll_initFrames] at sink
    have ready : u.sink.phase = .ready := by rw [sink]
    have nowhere : u.sink.pointer = none := by rw [sink]; rfl
    have broken : t.sink.phase = .broken := by
      rw [ran.sink]
      exact Sink.accept_data_breaks ready nowhere b
    exact ⟨t, (execAll_cons hu).trans ht, ran.free, broken⟩
  case afterPage =>
    have sends : SendInOrder (.selectPage page 0#7 :: bs.map .data)
        (selectFrames page 0#7 ++ bs.map fun b => (.data, b)) :=
      (SendInOrder.selectPage page 0#7).append (.map fun b _ => .data b)
    obtain ⟨t, ht, ran⟩ := sends s hf hs
    have broken : t.sink.phase = .broken := by
      rw [ran.sink, Sink.acceptAll_append, Sink.acceptAll_selectFrames hr]
      exact Sink.acceptAll_data_breaks (k := s.sink.pointTo page 0#7) hr (Sink.pointTo_pointer page 0#7 s.sink) hlen
    exact ⟨t, ht, ran.free, broken⟩

/-! ### Counts of events -/

theorem countEvents_append (l m : List Event) :
    countEvents (l ++ m) =
      { bytes := (countEvents l).bytes + (countEvents m).bytes
        lines := (countEvents l).lines + (countEvents m).lines
        waits := (countEvents l).waits + (countEvents m).waits
        samples := (countEvents l).samples + (countEvents m).samples } := by
  simp only [countEvents, List.countP_append]

/-- Every frame is one Byte and three Line events (R85, R238). -/
theorem countEvents_framesEvents (fs : List Frame) :
    countEvents (framesEvents fs) = ⟨fs.length, 3 * fs.length, 0, 0⟩ := by
  induction fs with
  | nil => rfl
  | cons f fs ih =>
    have one : countEvents (frameEvents f.1 f.2) = ⟨1, 3, 0, 0⟩ := rfl
    rw [framesEvents, List.flatMap_cons, countEvents_append, one, ← framesEvents, ih, List.length_cons]
    simp only [Nat.mul_add_one, Nat.add_comm 1, Nat.add_comm 3, Nat.add_zero]

theorem pageFrames_length (f : Nat → Nat → Byte) (page : Nat) : (pageFrames f page).length = 131 := by
  simp [pageFrames]

theorem screenFrames_length (f : Nat → Nat → Byte) : (screenFrames f).length = 1048 := by
  simp [screenFrames, List.length_flatMap, pageFrames_length]

/-- The events an operation adds are the ones of any account of its run. -/
theorem events_eq {i : Instr} {s t u : State} {ev added : List Event} (ht : exec i s = .next t)
    (hev : t.byteTrace = s.byteTrace ++ ev) (hu : exec i s = .next u) (hadded : u.byteTrace = s.byteTrace ++ added) :
    ev = added := by
  obtain rfl : t = u := Host.Outcome.next.inj (ht.symm.trans hu)
  exact List.append_cancel_left (hev.symm.trans hadded)

/-- An operation that adds no event to the byte level. -/
theorem countEvents_of_silent {i : Instr} {s t u : State} {ev : List Event} (ht : exec i s = .next t)
    (hev : t.byteTrace = s.byteTrace ++ ev) (hu : exec i s = .next u) (hsame : u.byteTrace = s.byteTrace) :
    countEvents ev = ⟨0, 0, 0, 0⟩ := by
  rw [events_eq ht hev hu (hsame.trans (List.append_nil _).symm)]
  rfl

/-- An operation that sends frames alone. -/
theorem SendInOrder.counts {i : Instr} {fs : List Frame} (h : SendInOrder [i] fs) {s t : State} {ev : List Event}
    (hf : s.PortFree) (hs : s.Serves) (ht : exec i s = .next t) (hev : t.byteTrace = s.byteTrace ++ ev) :
    countEvents ev = ⟨fs.length, 3 * fs.length, 0, 0⟩ := by
  obtain ⟨u, hu, ran⟩ := h s hf hs
  rw [execAll_singleton] at hu
  rw [events_eq ht hev hu ran.bytes, countEvents_framesEvents]

/-- READ adds no event to the byte level, whether a byte comes or not (R104, R230). -/
theorem exec_read_bytes {s : State} (hf : s.PortFree) (hs : s.Serves) :
    ∃ t, exec .read s = .next t ∧ t.byteTrace = s.byteTrace := by
  by_cases hcomes : s.spi.rxne = true ∨ s.spi.busy = true
  · obtain ⟨t, ht, -, -, -, -, -, bytes, -⟩ := readTakesReceivedByte s hf (hcomes.imp_right fun hb => ⟨hs, hb⟩)
    exact ⟨t, ht, bytes⟩
  · rw [not_or, Bool.not_eq_true, Bool.not_eq_true] at hcomes
    obtain ⟨hrxne, hidle⟩ := hcomes
    obtain ⟨t, ht, -, -, -, trace, -⟩ := readWithNothingComingIsStuck s hf hrxne hidle
    exact ⟨t, ht, State.byteTrace_congr trace⟩

/-- Settles O30: the events of each operation are known from its own statement (O13 to O15, O22 to O28, O45, O46), and a
frame counts as one Byte and three Line events (`countEvents_framesEvents`). -/
theorem eventCountsOfOperations : Obligations.EventCountsOfOperations := by
  intro i s t ev hi hf hs ht _ hev
  cases i with
  | spiInit =>
    obtain ⟨u, hu, -, -, -, -, -, -, -, bytes, -⟩ := spiInitConfigures s hf (.inr (.inr hs))
    exact countEvents_of_silent ht hev hu bytes
  | write b =>
    obtain ⟨u, hu, -, -, -, bytes, -⟩ := writeLoadsBuffer b s hf (.inr hs)
    obtain rfl := events_eq ht hev hu bytes
    rfl
  | read =>
    obtain ⟨u, hu, bytes⟩ := exec_read_bytes hf hs
    exact countEvents_of_silent ht hev hu bytes
  | reset =>
    obtain ⟨u, hu, -, -, pulsed⟩ := exec_reset hf
    obtain rfl := events_eq ht hev hu pulsed.bytes
    rfl
  | command b => exact (SendInOrder.command b).counts hf hs ht hev
  | data b => exact (SendInOrder.data b).counts hf hs ht hev
  | init =>
    obtain ⟨v, u, hu, pulsed, ran⟩ := exec_init hf hs
    have bytes := ran.bytes
    rw [pulsed.bytes, List.append_assoc] at bytes
    obtain rfl := events_eq ht hev hu bytes
    show countEvents (resetEvents ++ framesEvents initFrames) = ⟨26, 80, 2, 0⟩
    rw [countEvents_append, countEvents_framesEvents]
    rfl
  | clear =>
    have counts := SendInOrder.clear.counts hf hs ht hev
    rwa [screenFrames_length] at counts
  | selectPage page column => exact (SendInOrder.selectPage page column).counts hf hs ht hev
  | render inv =>
    have counts := (SendInOrder.render inv).counts hf hs ht hev
    rwa [screenFrames_length] at counts
  | pollEdge b =>
    obtain ⟨u, l, edge, hu, -, -, -, -, -, -, resEdge, -, bytes, -⟩ :=
      pollEdgeReportsPressEdge b s ((hasButton_iff b).mp hi) hf
    rw [List.append_assoc] at bytes
    obtain rfl := events_eq ht hev hu bytes
    obtain rfl : t = u := Host.Outcome.next.inj (ht.symm.trans hu)
    show countEvents _ = ⟨0, 0, if t.res.resEdge then 1 else 0, 1⟩
    rw [resEdge]
    cases edge <;> rfl
  | setSettle n =>
    obtain ⟨u, hu, -, -, -, trace, -⟩ := setSettleWritesSettle n s hf
    exact countEvents_of_silent ht hev hu (State.byteTrace_congr trace)

end Sys2Proof.Machine

/-! ## Written words: the vectors V1 and V2 -/

namespace Sys2Proof

/-- A SELECT_PAGE word with bit 7 set would name a column beyond 127 (R82, R83). -/
theorem decode_selectPage_of_bit7 {x : BitVec 24} (h : x.extractLsb' 7 1 = 1#1) :
    decode (opWord 0x15#8 x) = .error (.unusedBitSet 0x15#8 x) := by
  simp [decodeFields, whenUnusedZero, h]

/-- A POLL_EDGE word whose unused bits are 0 is still reserved when the build has no such button (R83). -/
theorem decode_pollEdge_of_absent {b : BitVec 2} (h : Config.hasButton b = false) :
    decode (opWord 0x30#8 (buttonOperand b)) = .error (.absentButton b) := by
  simp [decodeFields, h]

/-- Settles O5: each word of V1 is the word of a well-formed operation; of V2's two, one sets a bit its row leaves unused and
one names a button no build has. -/
theorem writtenWordsDecode : Obligations.WrittenWordsDecode := by
  refine ⟨?spiInit, ?write, ?read, ?reset, ?command, ?data, ?init, ?clear, ?selectPage, ?render, ?pollEdge, ?setSettle,
    ?column128, ?button3⟩
  case column128 => exact decode_selectPage_of_bit7 (x := 0x000080#24) rfl
  case button3 => exact decode_pollEdge_of_absent (b := 3#2) rfl
  all_goals exact decode_eq_ok_iff.mpr ⟨rfl, rfl⟩

end Sys2Proof
